-- ==== Sys2Proof/Word.lean ====
section
/-! DEFINITION. The two words of the block: the byte of the memories and the 32-bit host word. -/

namespace Sys2Proof

/-- One channel sample or one message character (R10 SAMPLE_BITS, CHAR_BITS). -/
abbrev Byte := BitVec 8

/-- One word of the host register interface (R20, R66). -/
abbrev Word := BitVec 32

end Sys2Proof
end

