-- ==== Sys2Proof/Syntax.lean ====
section
/-! DEFINITION. The commands: one constructor per row of spec/opcode_table.json (R104). -/

namespace Sys2Proof

/-- A command, selected by the OP field of a write to CMD (R21, R104). A command word has no operand: the
operands of ENCODE and DECODE are registers and memories at the moment of the write (R104, R183). -/
inductive Instr where
  /-- OP = 0: no operation (R181). -/
  | nop
  /-- OP = 1: message serializer and pixel bit writer (R121). -/
  | encode
  /-- OP = 2: pixel bit reader and message deserializer (R152). -/
  | decode
  /-- OP = 3: reserved, rejected with ILLEGAL_CMD (R185). -/
  | reserved3
  deriving DecidableEq, Repr

end Sys2Proof
end

