-- ==== Sys2Proof/Config.lean ====
section
/-! DEFINITION. What one implementation of the block fixes: the two memory sizes (R11), the byte an unwritten
location reads as (log entry 2), and the free values of an abandoned operation's output (R232, log entry 4).
The fixed parameters of R10 (8, 3, 32, 8, 1) stand as numerals where they are used. -/

namespace Sys2Proof

/-- The open parameters of R11. The model takes them as arguments: State carries one Config and no step
changes it (log entry 1). `Config.legal` (WellFormed.lean) says the bounds of R11. -/
structure Config where
  /-- PIX_DEPTH: samples in each of PIX and OUT_PIX. -/
  pixDepth : Nat
  /-- MSG_DEPTH: bytes in each of MSG_IN and MSG_OUT. -/
  msgDepth : Nat
  deriving DecidableEq, Repr

namespace Config

/-- The sizes 95_test_vectors.md uses unless a vector says otherwise. DESIGN CHOICE (log entry 1): the sizes
State.reset has. -/
def ofVectors : Config := { pixDepth := 64, msgDepth := 8 }

/-- What a location reads as that nothing has written since power-up. DESIGN CHOICE, unsafe (log entry 2):
R233 says it holds some value that is not known. -/
def powerUpByte : Byte := 0x00#8

/-- Free value (log entry 4): the byte at index `i` of the output range of the operation that the `n`-th reset
while BUSY = 1 abandoned (R232: "a model must treat each such byte as any value"). -/
opaque abandonedByte : Nat → Nat → BitVec 8

end Config

end Sys2Proof
end

