-- ==== Sys2Proof/WellFormed.lean ====
section
/-! DEFINITION. The checks on terms: a legal configuration (R11) and a well-formed command. -/

namespace Sys2Proof

/-- The bounds of R11 on PIX_DEPTH and MSG_DEPTH. -/
def Config.legal (c : Config) : Bool :=
  decide (c.pixDepth ≤ 2 ^ 32 - 1) && decide (32 ≤ c.pixDepth → (c.pixDepth - 32) / 8 ≤ c.msgDepth)

/-- Every command is well formed: a command has no operand that could be out of range (R104), and the reserved
code is a row with a defined effect (R105, R185). -/
def Instr.wf : Instr → Bool
  | .nop => true
  | .encode => true
  | .decode => true
  | .reserved3 => true

end Sys2Proof
end

