-- ==== Sys2Proof/Decode.lean ====
section
/-! DEFINITION. The command word (R104, R105): decoder, encoder and the opcode table as rows. -/

namespace Sys2Proof

/-- Why a bit string is not a command word. A 32-bit word is never rejected (R105: "the decoder is total"). -/
inductive DecodeReject where
  /-- There is no bit to read. -/
  | noBits
  /-- More bits than the one 32-bit word a command has (R104: "one format, one length"). -/
  | widerThanOneWord
  deriving DecidableEq, Repr

/-- R21, R104: `OP = word[1:0]` selects the command, `word[31:2]` is ignored. -/
def decodeWord (word : Word) : Instr :=
  match word.getLsbD 1, word.getLsbD 0 with
  | false, false => .nop
  | false, true => .encode
  | true, false => .decode
  | true, true => .reserved3

/-- The decoder on any bit string of `nbits` bits; bits of the word above `nbits` are 0. -/
def decode (nbits w : Nat) : Except DecodeReject Instr :=
  if nbits = 0 then .error .noBits
  else if 32 < nbits then .error .widerThanOneWord
  else .ok (decodeWord (BitVec.ofNat 32 (w % 2 ^ nbits)))

/-- The instruction the decoder reads from a word numbered as spec/opcode_table.json numbers it. -/
def decodeTableWord (nbits w : Nat) : Option Instr :=
  match decode nbits w with
  | .ok i => some i
  | .error _ => none

/-- The OP code of each command (R104). -/
def opcode : Instr → BitVec 2
  | .nop => 0b00#2
  | .encode => 0b01#2
  | .decode => 0b10#2
  | .reserved3 => 0b11#2

/-- A command word with the ignored bits 31 to 2 as given. -/
def encodeWith (ignored : BitVec 30) (i : Instr) : Word := ignored ++ opcode i

/-- The command word a host should write: 0 in the ignored bits (R104). -/
def encode (i : Instr) : Word := encodeWith 0#30 i

/-- One row of the table of R104. -/
structure OpcodeRow where
  mask : Word
  pattern : Word
  instr : Instr
  deriving DecidableEq, Repr

/-- The table of R104, row by row. -/
def opcodeTable : List OpcodeRow :=
  [ { mask := 0x00000003#32, pattern := 0x00000000#32, instr := .nop },
    { mask := 0x00000003#32, pattern := 0x00000001#32, instr := .encode },
    { mask := 0x00000003#32, pattern := 0x00000002#32, instr := .decode },
    { mask := 0x00000003#32, pattern := 0x00000003#32, instr := .reserved3 } ]

/-- A word is of a row when its masked bits are the row's pattern. -/
def OpcodeRow.covers (r : OpcodeRow) (word : Word) : Bool := word &&& r.mask == r.pattern

end Sys2Proof
end

