-- ==== Sys2Proof/Machine/State.lean ====
section
/-! DEFINITION. The state of LSBSTEG (R20): six host registers, eight working registers, four memories; and beside
them what the model itself needs: the configuration, the moves still to come, the values handed back to the host
and the counter of the free values. -/

namespace Sys2Proof.Machine

/-- The four memories of R39 to R43, separate storage. -/
inductive MemId where
  | pix | msgIn | outPix | msgOut
  deriving DecidableEq, Repr

/-- A memory: (index, byte) pairs, indices strictly rising, no pair whose byte an unlisted index reads as
(`Memory.wf`, Ops.lean). -/
abbrev Memory := List Host.Cell

/-- ECODE (R29). A value 5 to 15 is never produced (U18), so the codes are names. -/
inductive ErrCode where
  | none | capacityError | decodeError | badConfig | illegalCmd
  deriving DecidableEq, Repr

/-- DETAIL (R29). A value 4 to 15 is never produced (U18). -/
inductive Detail where
  /-- 0: no sub-cause. -/
  | none
  /-- 1: the buffer is shorter than the length field. -/
  | bufferTooShort
  /-- 2: the declared length exceeds the remaining samples. -/
  | lengthTooLong
  /-- 3: the declared length is not a multiple of 8. -/
  | lengthNotBytes
  deriving DecidableEq, Repr

/-- STATUS, register 1 (R26), by its fields. The bits outside them read 0 and cannot be written (U17), so they are
no state; `Status.word` (Flags.lean) is the word the host reads. -/
structure Status where
  busy : Bool
  done : Bool
  err : Bool
  ecode : ErrCode
  detail : Detail
  deriving DecidableEq, Repr

/-- OPR (R30): the operation in progress; the code 3 never occurs. -/
inductive Opr where
  | none | enc | dec
  deriving DecidableEq, Repr

/-- PHASE (R33; "a model may use an enumeration"). -/
inductive Phase where
  | idle | eCheck | eEmbed | eCopy | dCheck | dHdr | dLenchk | dPayload
  deriving DecidableEq, Repr

/-- A host action (R190), or a piece of the host notation that depends on what the machine answers (R107). -/
inductive HostAction where
  /-- `HostWriteReg(n, v)`, `WR`. -/
  | writeReg (n : Nat) (v : Word)
  /-- `HostReadReg(n)`, `RD`. -/
  | readReg (n : Nat)
  /-- `HostWriteMem(M, a, v)`. -/
  | writeMem (m : MemId) (a : Nat) (v : Byte)
  /-- `HostReadMem(M, a)`. -/
  | readMem (m : MemId) (a : Nat)
  /-- One byte of `CPY` (R82, R107): read OUT_PIX[a], write that byte to PIX[a]. -/
  | copyByte (a : Nat)
  /-- `WAIT`: read STATUS until BUSY = 0. -/
  | wait
  /-- `Reset`, `RESET` (R230). -/
  | reset
  deriving DecidableEq, Repr

/-- Which agent moves (R180, R193): an engine step or one host action. -/
inductive Turn where
  | engine
  | host (a : HostAction)
  deriving DecidableEq, Repr

/-- A value handed back to the host by a read (R190). -/
inductive Reply where
  | reg (n : Nat) (v : Word)
  | mem (m : MemId) (a : Nat) (v : Byte)
  deriving DecidableEq, Repr

/-- Why the machine stops with a fault. -/
inductive Fault where
  /-- An access at an index at or above the memory's depth: "no such location exists" (R16, R60, R190). Raised by
  `readByte` and `writeByte` (Ops.lean, log entry 5). Safe: the model stops where the spec gives no location. The
  engine never raises it in a state that meets the invariant (R70). -/
  | noSuchLocation (m : MemId) (a : Nat)
  deriving DecidableEq, Repr

/-- Why the model has no move. -/
inductive Refusal where
  /-- An arm of exec that has no meaning yet. Safe: nothing is proved about it. No arm uses it. -/
  | notModelled (mnemonic : String)
  /-- A host access to a memory while BUSY = 1, which R78 forbids and whose outcome U6 says must not be defined. Raised
  by `hostMemory` (HostActions.lean, log entry 6). Safe: nothing can be proved about such an access. -/
  | hostMemoryWhileBusy (m : MemId) (a : Nat)
  deriving DecidableEq, Repr

/-- The whole state. CMD (register 0) stores nothing (R21), so it has no field. -/
structure State where
  /-- STATUS, register 1 (R26 to R29). -/
  status : Status
  /-- WIDTH, register 2 (R22). -/
  width : Word
  /-- HEIGHT, register 3 (R23). -/
  height : Word
  /-- MSG_LEN, register 4 (R24). -/
  msgLen : Word
  /-- OUT_LEN, register 5 (R25). -/
  outLen : Word
  /-- OPR (R30). -/
  opr : Opr
  /-- PHASE (R33). -/
  phase : Phase
  /-- CAP, the capacity sampled at acceptance (R31). -/
  cap : BitVec 32
  /-- FLEN, the frame length of ENCODE (R32). -/
  flen : BitVec 36
  /-- LLEN, the copy of MSG_LEN taken at acceptance of ENCODE (R32). -/
  llen : BitVec 32
  /-- PLEN, the length DECODE reads (R32). -/
  plen : BitVec 32
  /-- IDX, the running index (R35). -/
  idx : BitVec 33
  /-- SHREG, the byte DECODE assembles (R32). -/
  shreg : BitVec 8
  /-- PIX, PIX_DEPTH bytes (R40). -/
  pix : Memory
  /-- MSG_IN, MSG_DEPTH bytes (R41). -/
  msgIn : Memory
  /-- OUT_PIX, PIX_DEPTH bytes (R42). -/
  outPix : Memory
  /-- MSG_OUT, MSG_DEPTH bytes (R43). -/
  msgOut : Memory
  /-- MODEL: PIX_DEPTH and MSG_DEPTH (R11); no step changes it (log entry 1). -/
  cfg : Config
  /-- MODEL: the moves still to come, first one first; when it is empty the engine moves (log entry 3). -/
  turns : List Turn
  /-- MODEL: the values host reads have returned, the latest first (log entry 3). -/
  replies : List Reply
  /-- MODEL: how many operations a reset has abandoned, the argument of the free values (log entry 4). -/
  abandoned : Nat
  deriving DecidableEq, Repr

/-- The machine right after a reset, for any configuration (R46, R230): every register 0, PHASE IDLE, OPR NONE,
nothing listed in memory (log entry 2). -/
def State.resetWith (c : Config) : State where
  status := { busy := false, done := false, err := false, ecode := .none, detail := .none }
  width := 0#32
  height := 0#32
  msgLen := 0#32
  outLen := 0#32
  opr := .none
  phase := .idle
  cap := 0#32
  flen := 0#36
  llen := 0#32
  plen := 0#32
  idx := 0#33
  shreg := 0#8
  pix := []
  msgIn := []
  outPix := []
  msgOut := []
  cfg := c
  turns := []
  replies := []
  abandoned := 0

/-- The machine right after reset (R46), with the memory sizes of 95_test_vectors.md (log entry 1). -/
def State.reset : State := State.resetWith Config.ofVectors

end Sys2Proof.Machine
end

