-- ==== Sys2Proof/Machine/Flags.lean ====
section
/-! DEFINITION. STATUS: the word the host reads (R26) and every way its fields are written (R27 to R29, R36). -/

namespace Sys2Proof.Machine

/-- The numbers of R29, R200. -/
def ErrCode.code : ErrCode → BitVec 4
  | .none => 0#4
  | .capacityError => 1#4
  | .decodeError => 2#4
  | .badConfig => 3#4
  | .illegalCmd => 4#4

/-- The numbers of R29, R200. -/
def Detail.code : Detail → BitVec 4
  | .none => 0#4
  | .bufferTooShort => 1#4
  | .lengthTooLong => 2#4
  | .lengthNotBytes => 3#4

/-- The layout of R26: BUSY 0, DONE 1, ERR 2, bit 3 zero, ECODE 7:4, DETAIL 11:8, bits 31:12 zero. -/
def Status.word (st : Status) : Word :=
  0#20 ++ st.detail.code ++ st.ecode.code ++ 0#1 ++
    BitVec.ofBool st.err ++ BitVec.ofBool st.done ++ BitVec.ofBool st.busy

/-- STATUS after reset (R46): all fields 0. -/
def Status.clear : Status :=
  { busy := false, done := false, err := false, ecode := .none, detail := .none }

/-- STATUS after acceptance (R183): every field cleared, then BUSY set. -/
def Status.accepted : Status := { Status.clear with busy := true }

/-- STATUS after a rejected command (R184, R185); BUSY was 0 and stays 0. -/
def Status.rejected (c : ErrCode) (st : Status) : Status :=
  { st with done := true, err := true, ecode := c, detail := .none }

/-- STATUS after `finish_ok` (R205): ERR, ECODE and DETAIL stay as acceptance left them. -/
def Status.finished (st : Status) : Status := { st with busy := false, done := true }

/-- STATUS after `raise` (R206). -/
def Status.raised (c : ErrCode) (d : Detail) : Status :=
  { busy := false, done := true, err := true, ecode := c, detail := d }

end Sys2Proof.Machine
end

