-- ==== Sys2Proof/Machine/Ops.lean ====
section
/-! DEFINITION. The named operations over memory and registers (R16), the two ways an operation ends (R205, R206),
the two rejections (R184, R185) and reset (R230). -/

namespace Sys2Proof.Machine

/-- A move's outcome. -/
abbrev Out := Host.Outcome State Fault Refusal

/-! ## One memory -/

/-- The byte at index `a`; an unlisted index reads as `Config.powerUpByte`. -/
def Memory.read : Memory → Nat → Byte
  | [], _ => Config.powerUpByte
  | (b, v) :: rest, a =>
    if a < b then Config.powerUpByte else if a = b then v else Memory.read rest a

/-- Put byte `v` at index `a`, keeping the canonical form. -/
def Memory.write : Memory → Nat → Byte → Memory
  | [], a, v => if v = Config.powerUpByte then [] else [(a, v)]
  | (b, w) :: rest, a, v =>
    if a < b then (if v = Config.powerUpByte then (b, w) :: rest else (a, v) :: (b, w) :: rest)
    else if a = b then (if v = Config.powerUpByte then rest else (a, v) :: rest)
    else (b, w) :: Memory.write rest a v

/-- The canonical form from index `lo` on: indices strictly rising and none below `lo`, no listed byte that an unlisted
index reads as. -/
def Memory.wfFrom : Nat → Memory → Bool
  | _, [] => true
  | lo, (a, v) :: rest =>
    decide (lo ≤ a) && decide (v ≠ Config.powerUpByte) && Memory.wfFrom (a + 1) rest

/-- The canonical form: equal memories are equal lists. -/
def Memory.wf (m : Memory) : Bool := Memory.wfFrom 0 m

/-- Every listed index is below `depth`. -/
def Memory.below (depth : Nat) (m : Memory) : Bool := m.all fun c => decide (c.1 < depth)

/-- Put the bytes `f 0 … f (n - 1)` at the indices below `n`. -/
def Memory.fill (f : Nat → Byte) : Nat → Memory → Memory
  | 0, m => m
  | n + 1, m => Memory.write (Memory.fill f n m) n (f n)

/-! ## The four memories -/

/-- depth(M) (R16, R60). -/
def depthOf (c : Config) : MemId → Nat
  | .pix => c.pixDepth
  | .outPix => c.pixDepth
  | .msgIn => c.msgDepth
  | .msgOut => c.msgDepth

/-- The memory of that name. -/
def State.mem (s : State) : MemId → Memory
  | .pix => s.pix
  | .msgIn => s.msgIn
  | .outPix => s.outPix
  | .msgOut => s.msgOut

/-- Replace the memory of that name. -/
def State.setMem (s : State) (m : MemId) (x : Memory) : State :=
  match m with
  | .pix => { s with pix := x }
  | .msgIn => { s with msgIn := x }
  | .outPix => { s with outPix := x }
  | .msgOut => { s with msgOut := x }

/-- `MemRead(M, a)` (R16), its value handed on to `k`; defined only below the depth. -/
def readByte (m : MemId) (a : Nat) (s : State) (k : Byte → Out) : Out :=
  if a < depthOf s.cfg m then k (Memory.read (s.mem m) a) else .fault (.noSuchLocation m a)

/-- `MemWrite(M, a, v)` (R16), the state after it handed on to `k`; defined only below the depth. -/
def writeByte (m : MemId) (a : Nat) (v : Byte) (s : State) (k : State → Out) : Out :=
  if a < depthOf s.cfg m then k (s.setMem m (Memory.write (s.mem m) a v))
  else .fault (.noSuchLocation m a)

/-! ## Registers of the host interface -/

/-- `HostReadReg(n)` (R190): R21 to R26, and 0 above register 5 (R38). -/
def State.readReg (s : State) : Nat → Word
  | 1 => s.status.word
  | 2 => s.width
  | 3 => s.height
  | 4 => s.msgLen
  | 5 => s.outLen
  | _ => 0#32

/-- The storing part of `HostWriteReg(n, v)` (R190): WIDTH, HEIGHT and MSG_LEN take the value; STATUS, OUT_LEN and
every register above 5 ignore it (R38). Register 0 stores nothing (R21). -/
def State.writeReg (s : State) (n : Nat) (v : Word) : State :=
  match n with
  | 2 => { s with width := v }
  | 3 => { s with height := v }
  | 4 => { s with msgLen := v }
  | _ => s

/-! ## Control transfer and the end of an operation -/

/-- `PHASE <- p` (R33). -/
def State.goto (s : State) (p : Phase) : State := { s with phase := p }

/-- `IDX <- IDX + 1` (R35). -/
def State.advance (s : State) : State := { s with idx := s.idx + 1#33 }

/-- `finish_ok` (R205). -/
def State.finishOk (s : State) : State :=
  { s with status := s.status.finished, opr := .none, phase := .idle }

/-- `raise E(c, d)` (R206): the one way an operation ends with an error. Nothing else is written; there is no
return from it (R212). -/
def State.raise (s : State) (c : ErrCode) (d : Detail) : State :=
  { s with status := .raised c d, opr := .none, phase := .idle }

/-- A rejected command (R184, R185). -/
def State.reject (s : State) (c : ErrCode) : State :=
  { s with status := s.status.rejected c, outLen := 0#32 }

end Sys2Proof.Machine
end

