-- ==== Sys2Proof/Machine/Operands.lean ====
section
/-! DEFINITION. The operands: capacity and frame length (R31, R32), sample order (R62), single bits (R16, R17), the
frame bit function (R92 to R97) and the big-endian reading of sample low bits (R98, R99). -/

namespace Sys2Proof.Machine

/-! ## Bits of a byte -/

/-- `lsb(v)` (R16). -/
def lsb (v : Byte) : Bool := v.getLsbD 0

/-- `setlsb(v, b) = (v AND 0xFE) OR b` (R16, R17). -/
def setlsb (v : Byte) (b : Bool) : Byte := (v &&& 0xFE#8) ||| (BitVec.ofBool b).setWidth 8

/-! ## Lengths: exact naturals (R13, R196) -/

/-- `3 x W x H`, exact (R31, R182). -/
def capacityOf (w h : Nat) : Nat := 3 * w * h

/-- `32 + 8 x L`, exact (R91, R122). -/
def frameLength (l : Nat) : Nat := 32 + 8 * l

/-- The capacity the registers WIDTH and HEIGHT ask for (R182). -/
def State.requestedCap (s : State) : Nat := capacityOf s.width.toNat s.height.toNat

/-! ## Sample order (R62) -/

/-- The index of channel `c` of the pixel in row `y` and column `x` of an image of width `w`. -/
def sampleIndex (w y x c : Nat) : Nat := 3 * (y * w + x) + c

/-- The channel of a sample: 0 red, 1 green, 2 blue. -/
def channelOf (i : Nat) : Nat := i % 3

/-- The column of a sample. -/
def columnOf (w i : Nat) : Nat := i / 3 % w

/-- The row of a sample. -/
def rowOf (w i : Nat) : Nat := i / (3 * w)

/-! ## The frame (R90 to R97) -/

/-- Stream position `i < 32`: value bit `31 - i` of `8 x L` (R92). -/
def lengthBit (l i : Nat) : Bool := (8 * l).testBit (31 - i)

/-- The message index of payload bit `j` (R93, R97). -/
def charIndex (j : Nat) : Nat := j / 8

/-- Payload bit `j` out of its character: bit `7 - (j mod 8)` (R93). -/
def charBit (c : Byte) (j : Nat) : Bool := c.getLsbD (7 - j % 8)

/-- `FrameBit(L, MSG, i)` (R94). -/
def frameBit (l : Nat) (msg : Nat → Byte) (i : Nat) : Bool :=
  if i < 32 then lengthBit l i else charBit (msg (charIndex (i - 32))) (i - 32)

/-- The frame bit the engine is at, from LLEN and, at and after position 32, from MSG_IN (R124). -/
def embedBit (s : State) (k : Bool → Out) : Out :=
  if s.idx.toNat < 32 then k (lengthBit s.llen.toNat s.idx.toNat)
  else readByte .msgIn (charIndex (s.idx.toNat - 32)) s fun c => k (charBit c (s.idx.toNat - 32))

/-! ## Reading bits, the first one most significant (R98, R99) -/

/-- Shift one more bit into a value: `2 x v + b` (R154, R156). -/
def shiftIn (v : Nat) (b : Bool) : Nat := 2 * v + b.toNat

/-- The value of the bits `b 0 … b (n - 1)`, first bit most significant. -/
def bitsValue (b : Nat → Bool) : Nat → Nat
  | 0 => 0
  | n + 1 => shiftIn (bitsValue b n) (b n)

/-- The length an image declares (R98). -/
def declaredLength (pix : Nat → Byte) : Nat := bitsValue (fun i => lsb (pix i)) 32

/-- Character `j` of the message an image holds (R99). -/
def messageChar (pix : Nat → Byte) (j : Nat) : Byte :=
  BitVec.ofNat 8 (bitsValue (fun k => lsb (pix (32 + 8 * j + k))) 8)

end Sys2Proof.Machine
end

