-- ==== Sys2Proof/Machine/Commands.lean ====
section
/-! DEFINITION. The meaning of each command: what a write to CMD does (R181 to R187). An accepted ENCODE or DECODE
then runs step by step (Engine.lean, R122, R151). -/

namespace Sys2Proof.Machine

/-- What acceptance writes whatever the command (R183): the status fields, OUT_LEN, CAP, IDX, PLEN and SHREG. -/
def State.acceptCommon (s : State) : State :=
  { s with
    status := .accepted
    outLen := 0#32
    cap := BitVec.ofNat 32 s.requestedCap
    idx := 0#33
    plen := 0#32
    shreg := 0#8 }

/-- Acceptance of ENCODE (R122, R183). -/
def State.acceptEncode (s : State) : State :=
  { s.acceptCommon with
    llen := s.msgLen
    flen := BitVec.ofNat 36 (frameLength s.msgLen.toNat)
    opr := .enc
    phase := .eCheck }

/-- Acceptance of DECODE (R151, R183): FLEN and LLEN stay as they were. -/
def State.acceptDecode (s : State) : State :=
  { s.acceptCommon with
    opr := .dec
    phase := .dCheck }

/-- The configuration check of R182, made while BUSY = 0: reject with BAD_CONFIG (R184) or go on. -/
def withLegalConfig (s : State) (k : State → Out) : Out :=
  if s.cfg.pixDepth < s.requestedCap then .next (s.reject .badConfig) else k s

/-- A command other than NOP: ignored while BUSY = 1 (R186). -/
def whenNotBusy (s : State) (k : State → Out) : Out :=
  if s.status.busy then .next s else k s

/-- NOP (R181): nothing changes, whether BUSY is 0 or 1. -/
def execNop (s : State) : Out := .next s

/-- ENCODE (R120, R183, R184, R186). -/
def execEncode (s : State) : Out :=
  whenNotBusy s fun s => withLegalConfig s fun s => .next s.acceptEncode

/-- DECODE (R150, R183, R184, R186). -/
def execDecode (s : State) : Out :=
  whenNotBusy s fun s => withLegalConfig s fun s => .next s.acceptDecode

/-- The reserved command code (R185, R186): rejected with ILLEGAL_CMD. -/
def execReserved3 (s : State) : Out :=
  whenNotBusy s fun s => .next (s.reject .illegalCmd)

end Sys2Proof.Machine
end

