-- ==== Sys2Proof/Machine/Engine.lean ====
section
/-! DEFINITION. The engine: the step of each PHASE (R123 to R126, R153 to R156); R195 lists the transitions. -/

namespace Sys2Proof.Machine

/-- E_CHECK, the capacity check (R123). -/
def stepECheck (s : State) : Out :=
  if s.cap.toNat < s.flen.toNat then .next (s.raise .capacityError .none) else .next (s.goto .eEmbed)

/-- E_EMBED, the pixel bit writer (R124). -/
def stepEEmbed (s : State) : Out :=
  if s.idx.toNat < s.flen.toNat then
    embedBit s fun b =>
      readByte .pix s.idx.toNat s fun v =>
        writeByte .outPix s.idx.toNat (setlsb v b) s fun s => .next s.advance
  else .next (s.goto .eCopy)

/-- E_COPY, the rest of the copy (R126). -/
def stepECopy (s : State) : Out :=
  if s.idx.toNat < s.cap.toNat then
    readByte .pix s.idx.toNat s fun v =>
      writeByte .outPix s.idx.toNat v s fun s => .next s.advance
  else .next s.finishOk

/-- D_CHECK, the buffer check (R153). -/
def stepDCheck (s : State) : Out :=
  if s.cap.toNat < 32 then .next (s.raise .decodeError .bufferTooShort) else .next (s.goto .dHdr)

/-- D_HDR, the pixel bit reader on the length field (R154). -/
def stepDHdr (s : State) : Out :=
  if s.idx.toNat < 32 then
    readByte .pix s.idx.toNat s fun v =>
      .next { s with plen := BitVec.ofNat 32 (shiftIn s.plen.toNat (lsb v)) }.advance
  else .next (s.goto .dLenchk)

/-- D_LENCHK, the two checks of the declared length, in this order (R155). -/
def stepDLenchk (s : State) : Out :=
  if s.cap.toNat < 32 + s.plen.toNat then .next (s.raise .decodeError .lengthTooLong)
  else if s.plen.toNat % 8 ≠ 0 then .next (s.raise .decodeError .lengthNotBytes)
  else .next (s.goto .dPayload)

/-- Store the byte just completed: only when `(IDX - 32) mod 8 = 7` (R156). -/
def storeChar (c : Byte) (s : State) (k : State → Out) : Out :=
  if (s.idx.toNat - 32) % 8 = 7 then writeByte .msgOut (charIndex (s.idx.toNat - 32)) c s k else k s

/-- D_PAYLOAD, the pixel bit reader on the payload and the message deserializer (R156). -/
def stepDPayload (s : State) : Out :=
  if s.idx.toNat < 32 + s.plen.toNat then
    readByte .pix s.idx.toNat s fun v =>
      storeChar (BitVec.ofNat 8 (shiftIn s.shreg.toNat (lsb v))) s fun t =>
        .next { t with shreg := BitVec.ofNat 8 (shiftIn s.shreg.toNat (lsb v)) }.advance
  else .next { s with outLen := BitVec.ofNat 32 (s.plen.toNat / 8) }.finishOk

/-- One engine step: fixed by PHASE (R33, R180). In IDLE there is none and the state stays as it is (R194). -/
def engineStep (s : State) : Out :=
  match s.phase with
  | .idle => .next s
  | .eCheck => stepECheck s
  | .eEmbed => stepEEmbed s
  | .eCopy => stepECopy s
  | .dCheck => stepDCheck s
  | .dHdr => stepDHdr s
  | .dLenchk => stepDLenchk s
  | .dPayload => stepDPayload s

end Sys2Proof.Machine
end

