-- ==== Sys2Proof/Machine/HostActions.lean ====
section
/-! DEFINITION. The host's actions (R190), each atomic with respect to engine steps, and one move of the machine. -/

namespace Sys2Proof.Machine

/-- Hand a value back to the host (log entry 3). -/
def State.reply (s : State) (r : Reply) : State := { s with replies := r :: s.replies }

/-- A host access to memory `m`: no move while BUSY = 1 (R78, U6). -/
def hostMemory (m : MemId) (a : Nat) (s : State) (k : State → Out) : Out :=
  if s.status.busy then .refused (.hostMemoryWhileBusy m a) else k s

/-- `HostWriteReg(n, v)` (R190): a write to register 0 is the command event (R187). -/
def hostWriteReg (n : Nat) (v : Word) (s : State) : Out :=
  if n = 0 then exec (decodeWord v) s else .next (s.writeReg n v)

/-- `HostReadReg(n)` (R190): no side effect on the block. -/
def hostReadReg (n : Nat) (s : State) : Out := .next (s.reply (.reg n (s.readReg n)))

/-- `HostWriteMem(M, a, v)` (R190), for any of the four memories. -/
def hostWriteMem (m : MemId) (a : Nat) (v : Byte) (s : State) : Out :=
  hostMemory m a s fun s => writeByte m a v s fun s => .next s

/-- `HostReadMem(M, a)` (R190), for any of the four memories. -/
def hostReadMem (m : MemId) (a : Nat) (s : State) : Out :=
  hostMemory m a s fun s => readByte m a s fun v => .next (s.reply (.mem m a v))

/-- One byte of `CPY` (R82, R107): a host read of OUT_PIX[a] and a host write of that byte to PIX[a]. -/
def hostCopyByte (a : Nat) (s : State) : Out :=
  hostMemory .outPix a s fun s =>
    readByte .outPix a s fun v =>
      writeByte .pix a v (s.reply (.mem .outPix a v)) fun s => .next s

/-- The indices of MSG_OUT the running DECODE could have written (R232): those below `PLEN div 8` that exist, for the
length PIX declares, none when the length field itself does not fit (log entry 4). -/
def abandonedChars (s : State) : Nat :=
  if s.cap.toNat < 32 then 0 else min (declaredLength (Memory.read s.pix) / 8) s.cfg.msgDepth

/-- The output range of an operation that a reset abandons: free values (R232, log entry 4). With BUSY = 0 nothing is
abandoned. -/
def State.abandon (s : State) : State :=
  if s.status.busy then
    match s.opr with
    | .none => s
    | .enc =>
      { s with
        outPix := Memory.fill (Config.abandonedByte s.abandoned) s.cap.toNat s.outPix
        abandoned := s.abandoned + 1 }
    | .dec =>
      { s with
        msgOut := Memory.fill (Config.abandonedByte s.abandoned) (abandonedChars s) s.msgOut
        abandoned := s.abandoned + 1 }
  else s

/-- Every host register and working register at its reset value (R46, R230); the memories and the model's own fields
stay. -/
def State.resetRegisters (s : State) : State :=
  { State.resetWith s.cfg with
    pix := s.pix
    msgIn := s.msgIn
    outPix := s.outPix
    msgOut := s.msgOut
    turns := s.turns
    replies := s.replies
    abandoned := s.abandoned }

/-- `Reset` (R230, R232): one atomic action, enabled in every state. -/
def hostReset (s : State) : Out := .next s.abandon.resetRegisters

/-- One poll of `WAIT` (R107): while BUSY = 1 the engine moves and the host polls again (`again` is the state in which
it still waits); at BUSY = 0 the host has its STATUS value. -/
def hostWait (again : State) (s : State) : Out :=
  if s.status.busy then engineStep again else hostReadReg 1 s

/-- One move (R180, R193): the agent the next turn names, the engine when no turn is left. -/
def move (s : State) : Out :=
  match s.turns with
  | [] => engineStep s
  | .engine :: rest => engineStep { s with turns := rest }
  | .host (.writeReg n v) :: rest => hostWriteReg n v { s with turns := rest }
  | .host (.readReg n) :: rest => hostReadReg n { s with turns := rest }
  | .host (.writeMem m a v) :: rest => hostWriteMem m a v { s with turns := rest }
  | .host (.readMem m a) :: rest => hostReadMem m a { s with turns := rest }
  | .host (.copyByte a) :: rest => hostCopyByte a { s with turns := rest }
  | .host .wait :: rest => hostWait s { s with turns := rest }
  | .host .reset :: rest => hostReset { s with turns := rest }

/-- The state in which the host's next move is a write of `word` to CMD. -/
def State.withCommand (s : State) (word : Word) : State :=
  { s with turns := .host (.writeReg 0 word) :: s.turns }

end Sys2Proof.Machine
end

