-- ==== Sys2Proof/Machine/Step.lean ====
section
/-! DEFINITION. One step of the machine, and where its next command stands. -/

namespace Sys2Proof.Machine

/-- One engine step or one host action, whichever moves next (R180, R193). -/
def step (s : State) : Host.Outcome State Fault Refusal := move s

/-- The state whose next step is the write of that command word to CMD (log entry 3). -/
def State.withFetchWord (s : State) (nbits w : Nat) : State :=
  s.withCommand (BitVec.ofNat 32 (w % 2 ^ nbits))

end Sys2Proof.Machine
end

