-- ==== Sys2Proof/Machine/HostProgram.lean ====
section
/-! DEFINITION. The host notation (R107) and its pseudo-actions (R108) as lists of turns. -/

namespace Sys2Proof.Machine

/-- Number the bytes of a list from `a` on and turn each into a host write. -/
def loadFrom (m : MemId) : Nat → List Byte → List Turn
  | _, [] => []
  | a, v :: rest => .host (.writeMem m a v) :: loadFrom m (a + 1) rest

/-- `WR reg, value`. -/
def wr (n : Nat) (v : Word) : List Turn := [.host (.writeReg n v)]

/-- `RD reg`. -/
def rd (n : Nat) : List Turn := [.host (.readReg n)]

/-- `LDP [b0 b1 ...]`: the bytes to PIX[0], PIX[1], ... -/
def ldp (bytes : List Byte) : List Turn := loadFrom .pix 0 bytes

/-- `LDM [b0 b1 ...]`: the bytes to MSG_IN[0], MSG_IN[1], ... -/
def ldm (bytes : List Byte) : List Turn := loadFrom .msgIn 0 bytes

/-- `RDP n`: read OUT_PIX[0 .. n-1]. -/
def rdp (n : Nat) : List Turn := (List.range n).map fun a => .host (.readMem .outPix a)

/-- `RDM n`: read MSG_OUT[0 .. n-1]. -/
def rdm (n : Nat) : List Turn := (List.range n).map fun a => .host (.readMem .msgOut a)

/-- `CPY n`: copy OUT_PIX[0 .. n-1] to PIX[0 .. n-1] (R82). -/
def cpy (n : Nat) : List Turn := (List.range n).map fun a => .host (.copyByte a)

/-- `WAIT`. -/
def waitDone : List Turn := [.host .wait]

/-- `RESET`. -/
def resetBlock : List Turn := [.host .reset]

/-- The pseudo-action `ENCODE W, H, [m0 ...]` (R108). -/
def encodeAction (w h : Word) (msg : List Byte) : List Turn :=
  wr 2 w ++ wr 3 h ++ ldm msg ++ wr 4 (BitVec.ofNat 32 msg.length) ++ wr 0 (encode .encode) ++ waitDone

/-- The pseudo-action `DECODE W, H` (R108). -/
def decodeAction (w h : Word) : List Turn := wr 2 w ++ wr 3 h ++ wr 0 (encode .decode) ++ waitDone

/-- The pseudo-action `NOP` (R108). -/
def nopAction : List Turn := wr 0 (encode .nop)

end Sys2Proof.Machine
end

