-- ==== Sys2Proof/Machine/Functional.lean ====
section
/-! DEFINITION. The function-level meanings, which are normative (R121, R152), and the whole decision for a CMD write
(R187): what the steps of Engine.lean and the arms of Commands.lean are held against. -/

namespace Sys2Proof.Machine

/-- Sample `i` of the image ENCODE writes (R121). -/
def encodedSample (l : Nat) (msg pix : Nat → Byte) (i : Nat) : Byte :=
  if i < frameLength l then setlsb (pix i) (frameBit l msg i) else pix i

/-- `encode(pixels, message)` (R106, R121): the samples of the new image, or CapacityError. -/
def encodeImage (w h l : Nat) (msg pix : Nat → Byte) : Except ErrCode (List Byte) :=
  if capacityOf w h < frameLength l then .error .capacityError
  else .ok ((List.range (capacityOf w h)).map (encodedSample l msg pix))

/-- `decode(pixels)` (R106, R152): the bytes of the message, or the cause of the DecodeError. -/
def decodeImage (w h : Nat) (pix : Nat → Byte) : Except Detail (List Byte) :=
  if capacityOf w h < 32 then .error .bufferTooShort
  else if capacityOf w h < 32 + declaredLength pix then .error .lengthTooLong
  else if declaredLength pix % 8 ≠ 0 then .error .lengthNotBytes
  else .ok ((List.range (declaredLength pix / 8)).map (messageChar pix))

/-- `OnCmdWrite(word)` (R187), line by line. -/
def onCmdWrite (word : Word) (s : State) : State :=
  if s.status.busy then s
  else if word.toNat % 4 = 0 then s
  else
    let cleared := { s with status := Status.clear, outLen := 0#32 }
    if word.toNat % 4 = 3 then
      { cleared with status := { Status.clear with done := true, err := true, ecode := .illegalCmd } }
    else if s.cfg.pixDepth < 3 * s.width.toNat * s.height.toNat then
      { cleared with status := { Status.clear with done := true, err := true, ecode := .badConfig } }
    else if word.toNat % 4 = 1 then cleared.acceptEncode
    else cleared.acceptDecode

/-- The first `n` bytes of a memory. -/
def bytesOf (m : Memory) (n : Nat) : List Byte := (List.range n).map (Memory.read m)

end Sys2Proof.Machine
end

