-- ==== Sys2Proof/Safety.lean ====
section
/-! DEFINITION. The invariants of the block (R48 and what the step rules imply), and the words claims use for a run. -/

namespace Sys2Proof.Machine

/-- PHASE is one of ENCODE's (R33). -/
def Phase.ofEncode : Phase → Bool
  | .eCheck => true
  | .eEmbed => true
  | .eCopy => true
  | .idle => false
  | .dCheck => false
  | .dHdr => false
  | .dLenchk => false
  | .dPayload => false

/-- PHASE is one of DECODE's (R33). -/
def Phase.ofDecode : Phase → Bool
  | .dCheck => true
  | .dHdr => true
  | .dLenchk => true
  | .dPayload => true
  | .idle => false
  | .eCheck => false
  | .eEmbed => false
  | .eCopy => false

/-- A memory in canonical form whose listed indices exist. -/
def Memory.good (depth : Nat) (m : Memory) : Bool := Memory.wf m && Memory.below depth m

/-- The invariant of R48, letter by letter, with the bounds of R11 and the canonical form of the memories, and with
what makes it inductive: FLEN and LLEN agree, IDX has its range in every phase, OUT_LEN is 0 while BUSY = 1. -/
structure BlockInv (s : State) : Prop where
  cfgLegal : Config.legal s.cfg = true
  memGood : ∀ m : MemId, Memory.good (depthOf s.cfg m) (s.mem m) = true
  /-- (a) -/
  busyPhase : s.status.busy = true ↔ s.phase ≠ .idle
  /-- (a) -/
  busyOpr : s.status.busy = true ↔ s.opr ≠ .none
  /-- (b) -/
  busyFlags : s.status.busy = true → s.status.done = false ∧ s.status.err = false
  /-- (c) -/
  errDone : s.status.err = true → s.status.done = true
  /-- (d) -/
  errEcode : s.status.err = true ↔ s.status.ecode ≠ .none
  /-- (e), and every DecodeError has a sub-cause (R200). -/
  detailEcode : s.status.detail ≠ .none ↔ s.status.ecode = .decodeError
  /-- (f) -/
  encodeOpr : s.phase.ofEncode = true → s.opr = .enc
  /-- (f) -/
  decodeOpr : s.phase.ofDecode = true → s.opr = .dec
  /-- (g) -/
  busyCap : s.status.busy = true → s.cap.toNat ≤ s.cfg.pixDepth
  /-- R183: cleared at acceptance. -/
  busyOutLen : s.status.busy = true → s.outLen = 0#32
  /-- R122 -/
  encodeFlen : s.phase.ofEncode = true → s.flen.toNat = frameLength s.llen.toNat
  /-- R183 -/
  checkIdx : s.phase = .eCheck ∨ s.phase = .dCheck → s.idx.toNat = 0
  /-- (h) -/
  embedBounds : s.phase = .eEmbed → s.idx.toNat ≤ s.flen.toNat ∧ s.flen.toNat ≤ s.cap.toNat
  /-- (h) -/
  copyBounds : s.phase = .eCopy →
    s.flen.toNat ≤ s.idx.toNat ∧ s.flen.toNat ≤ s.cap.toNat ∧ s.idx.toNat ≤ s.cap.toNat
  /-- R151 -/
  dCheckPlen : s.phase = .dCheck → s.plen.toNat = 0
  /-- (j), and R154: the `mod` never discards a 1 bit. -/
  hdrBounds : s.phase = .dHdr →
    32 ≤ s.cap.toNat ∧ s.idx.toNat ≤ 32 ∧ s.plen.toNat < 2 ^ s.idx.toNat
  lenchkBounds : s.phase = .dLenchk → 32 ≤ s.cap.toNat ∧ s.idx.toNat = 32
  /-- (i) -/
  payloadBounds : s.phase = .dPayload →
    32 + s.plen.toNat ≤ s.cap.toNat ∧ s.plen.toNat % 8 = 0 ∧
      32 ≤ s.idx.toNat ∧ s.idx.toNat ≤ 32 + s.plen.toNat
  /-- (k): no acceptance, rejection or error since the DECODE whose PLEN and IDX still stand. -/
  outLenDecode : s.outLen ≠ 0#32 →
    s.status = { Status.clear with done := true } ∧ 8 * s.outLen.toNat = s.plen.toNat ∧
      s.idx.toNat = 32 + s.plen.toNat

/-- How far the operation in progress has come: what the memories and registers hold of the function-level result
(R121, R152) when the engine stands at IDX. -/
structure Progress (s : State) : Prop where
  /-- The samples already written are those of R121. -/
  written : s.phase = .eEmbed ∨ s.phase = .eCopy → ∀ i < s.idx.toNat,
    Memory.read s.outPix i = encodedSample s.llen.toNat (Memory.read s.msgIn) (Memory.read s.pix) i
  /-- PLEN at acceptance (R151). -/
  start : s.phase = .dCheck → s.plen.toNat = 0
  /-- PLEN is the value of the length bits read so far (R154, R98). -/
  header : s.phase = .dHdr →
    s.plen.toNat = bitsValue (fun i => lsb (Memory.read s.pix i)) s.idx.toNat
  /-- After the 32nd reading step PLEN is the declared length (R154). -/
  declared : s.phase = .dLenchk ∨ s.phase = .dPayload →
    s.plen.toNat = declaredLength (Memory.read s.pix)
  /-- SHREG is still as acceptance left it (R183). -/
  unassembled : s.phase = .dCheck ∨ s.phase = .dHdr ∨ s.phase = .dLenchk → s.shreg.toNat = 0
  /-- SHREG holds the last 8 payload bits read (R156). -/
  assembled : s.phase = .dPayload → s.shreg.toNat =
    bitsValue (fun k => lsb (Memory.read s.pix (32 + k))) (s.idx.toNat - 32) % 256
  /-- The characters already completed are those of R99. -/
  stored : s.phase = .dPayload → ∀ j < (s.idx.toNat - 32) / 8,
    Memory.read s.msgOut j = messageChar (Memory.read s.pix) j

/-- The block is idle and no host move is pending: from here on only the engine moves after a command. -/
def State.idleAlone (s : State) : Prop := s.status.busy = false ∧ s.turns = []

/-- `n` moves of the machine, stopping at the first fault or refusal (`Host.Core.run`, by `runs_eq_core_run`). -/
def runs : Nat → State → Out
  | 0, s => .next s
  | n + 1, s =>
    match step s with
    | .next t => runs n t
    | .fault r => .fault r
    | .refused r => .refused r

end Sys2Proof.Machine
end

