-- ==== Sys2Proof/Certificates/Slice0/Obligations.lean ====
section
/-! DEFINITION. The statements for the provers. -/

open Sys2Proof Sys2Proof.Machine

/-! ## Encoding -/

/-- R104: the command word of every command, with any value in the ignored bits, decodes to that command. -/
def Obligations.CommandWordReadsBack : Prop :=
  ∀ (i : Instr) (ignored : BitVec 30), decodeWord (encodeWith ignored i) = i

/-- R105: "every 32-bit word decodes to exactly one of the four rows". -/
def Obligations.WordIsOfExactlyOneRow : Prop :=
  ∀ word : Word, ∃ r ∈ opcodeTable, r.covers word = true ∧ decodeWord word = r.instr ∧
    ∀ r' ∈ opcodeTable, r'.covers word = true → r' = r

/-- Words written out from R104 and vectors V41, V43, V47. -/
def Obligations.WrittenWordsDecode : Prop :=
  decodeWord 0x00000000#32 = .nop ∧ decodeWord 0x00000001#32 = .encode ∧ decodeWord 0x00000002#32 = .decode ∧
    decodeWord 0x00000003#32 = .reserved3 ∧ decodeWord 0xFFFFFFFC#32 = .nop ∧ decodeWord 0x80000001#32 = .encode ∧
    decodeWord 0x00000007#32 = .reserved3

/-! ## Reset -/

/-- R46: the machine after reset, every register at the value of the table. -/
def Obligations.ResetRegistersAreZero : Prop :=
  State.reset.status.word = 0#32 ∧ State.reset.width = 0#32 ∧ State.reset.height = 0#32 ∧
    State.reset.msgLen = 0#32 ∧ State.reset.outLen = 0#32 ∧ State.reset.opr = .none ∧ State.reset.phase = .idle ∧
    State.reset.cap = 0#32 ∧ State.reset.flen = 0#36 ∧ State.reset.llen = 0#32 ∧ State.reset.plen = 0#32 ∧
    State.reset.idx = 0#33 ∧ State.reset.shreg = 0#8

/-- R230: reset is enabled in every state, zeroes every register, leaves PIX and MSG_IN alone and, when no operation
was running, OUT_PIX and MSG_OUT too; the engine then has no step to take. -/
def Obligations.ResetActionClearsRegisters : Prop :=
  ∀ (s : State) (rest : List Turn), s.turns = .host .reset :: rest →
    ∃ t, step s = .next t ∧
      t = { State.resetWith s.cfg with
            pix := s.pix, msgIn := s.msgIn, outPix := t.outPix, msgOut := t.msgOut,
            turns := rest, replies := s.replies, abandoned := t.abandoned } ∧
      (s.status.busy = false → t.outPix = s.outPix ∧ t.msgOut = s.msgOut) ∧
      engineStep t = .next t

/-- R231: two resets in a row equal one, and what reset leaves in the registers does not depend on the state it is
applied in (the memories and the model's own fields are not registers). -/
def Obligations.TwoResetsEqualOne : Prop :=
  (∀ s t : State, hostReset s = .next t → hostReset t = .next t) ∧
  (∀ s s' t t' : State, s'.cfg = s.cfg → hostReset s = .next t → hostReset s' = .next t' →
    t' = { t with pix := s'.pix, msgIn := s'.msgIn, outPix := t'.outPix, msgOut := t'.msgOut, turns := s'.turns,
                  replies := s'.replies, abandoned := t'.abandoned })

/-- R232: the output range of an abandoned operation holds free values (log entry 4), every other byte is kept, and
no error is reported. -/
def Obligations.ResetWhileBusyFreesOutputRange : Prop :=
  ∀ s : State, BlockInv s → Progress s → s.status.busy = true →
    ∃ t, hostReset s = .next t ∧ t.status.word = 0#32 ∧ t.pix = s.pix ∧ t.msgIn = s.msgIn ∧
      (s.opr = .enc → t.msgOut = s.msgOut ∧ ∀ a, Memory.read t.outPix a =
        if a < s.cap.toNat then Config.abandonedByte s.abandoned a else Memory.read s.outPix a) ∧
      (s.opr = .dec → t.outPix = s.outPix) ∧
      (s.phase = .dPayload → ∀ a, Memory.read t.msgOut a =
        if a < s.plen.toNat / 8 then Config.abandonedByte s.abandoned a else Memory.read s.msgOut a)

/-! ## A write to CMD -/

/-- R181: NOP, that is any word with OP = 0 written to CMD, changes nothing, whether BUSY is 0 or 1. -/
def Obligations.NopChangesNothing : Prop :=
  (∀ s : State, exec .nop s = .next s) ∧
  (∀ (s : State) (word : Word), word.toNat % 4 = 0 → hostWriteReg 0 word s = .next s)

/-- R186: a command while BUSY = 1, that is any word written to CMD, is ignored: the state stays as it is. -/
def Obligations.CommandIgnoredWhileBusy : Prop :=
  ∀ s : State, s.status.busy = true →
    (∀ i : Instr, exec i s = .next s) ∧ (∀ word : Word, hostWriteReg 0 word s = .next s)

/-- R183, R122, R151: what acceptance of ENCODE and of DECODE writes, exactly, and nothing else. -/
def Obligations.AcceptanceLatchesOperands : Prop :=
  ∀ s : State, s.status.busy = false → 3 * s.width.toNat * s.height.toNat ≤ s.cfg.pixDepth →
    s.cfg.pixDepth ≤ 2 ^ 32 - 1 →
    (∃ t, exec .encode s = .next t ∧
      t = { s with status := { busy := true, done := false, err := false, ecode := .none, detail := .none },
                   outLen := 0#32, cap := t.cap, flen := t.flen, llen := s.msgLen, idx := 0#33, plen := 0#32,
                   shreg := 0#8, opr := .enc, phase := .eCheck } ∧
      t.cap.toNat = 3 * s.width.toNat * s.height.toNat ∧ t.flen.toNat = 32 + 8 * s.msgLen.toNat) ∧
    (∃ t, exec .decode s = .next t ∧
      t = { s with status := { busy := true, done := false, err := false, ecode := .none, detail := .none },
                   outLen := 0#32, cap := t.cap, idx := 0#33, plen := 0#32, shreg := 0#8, opr := .dec,
                   phase := .dCheck } ∧
      t.cap.toNat = 3 * s.width.toNat * s.height.toNat)

/-- R184: an image larger than the pixel memory is rejected with BAD_CONFIG; only STATUS and OUT_LEN change. -/
def Obligations.OversizeImageRejected : Prop :=
  ∀ (i : Instr) (s : State), i = .encode ∨ i = .decode → s.status.busy = false →
    s.cfg.pixDepth < 3 * s.width.toNat * s.height.toNat →
    exec i s = .next { s with
      status := { busy := false, done := true, err := true, ecode := .badConfig, detail := .none }, outLen := 0#32 }

/-- R185: the effect of the reserved command is a rejection with ILLEGAL_CMD; only STATUS and OUT_LEN change. -/
def Obligations.ReservedCommandRejected : Prop :=
  ∀ s : State, s.status.busy = false →
    exec .reserved3 s = .next { s with
      status := { busy := false, done := true, err := true, ecode := .illegalCmd, detail := .none }, outLen := 0#32 }

/-- R187: the write of any word to CMD is the decision of OnCmdWrite, line by line. -/
def Obligations.CmdWriteIsTheDecision : Prop :=
  ∀ (word : Word) (s : State), hostWriteReg 0 word s = .next (onCmdWrite word s)

/-- The frame of every command: no memory, no host argument register and no model field changes, and what is not
accepted changes at most STATUS and OUT_LEN. -/
def Obligations.CommandFrame : Prop :=
  ∀ (i : Instr) (s t : State), exec i s = .next t →
    (∀ (m : MemId) (a : Nat), Memory.read (t.mem m) a = Memory.read (s.mem m) a) ∧
    t.width = s.width ∧ t.height = s.height ∧ t.msgLen = s.msgLen ∧ t.cfg = s.cfg ∧ t.turns = s.turns ∧
    t.replies = s.replies ∧ t.abandoned = s.abandoned ∧
    (i ≠ .encode → t.flen = s.flen ∧ t.llen = s.llen) ∧
    (s.status.busy = true ∨ t.status.busy = false → t = { s with status := t.status, outLen := t.outLen }) ∧
    (i = .nop → t = s)

/-- R44: what acceptance hands to the engine does not depend on any status field, OUT_LEN or working register of an
earlier operation (FLEN and LLEN stay for DECODE, which does not read them). -/
def Obligations.AcceptanceForgetsEarlierOperations : Prop :=
  ∀ s s' t t' : State,
    s' = { s with status := s'.status, outLen := s'.outLen, opr := s'.opr, phase := s'.phase, cap := s'.cap,
                  flen := s'.flen, llen := s'.llen, plen := s'.plen, idx := s'.idx, shreg := s'.shreg } →
    s.status.busy = false → s'.status.busy = false → s.requestedCap ≤ s.cfg.pixDepth →
    (exec .encode s = .next t → exec .encode s' = .next t' → t = t') ∧
    (exec .decode s = .next t → exec .decode s' = .next t' → t = { t' with flen := t.flen, llen := t.llen })

/-! ## A step of the machine -/

/-- A step whose turn is a write to CMD runs the command its word decodes to, past that turn; the fetch word stands
exactly there. -/
def Obligations.StepRunsDecodedCommand : Prop :=
  (∀ (s : State) (word : Word) (rest : List Turn), s.turns = .host (.writeReg 0 word) :: rest →
    step s = exec (decodeWord word) { s with turns := rest }) ∧
  (∀ (s : State) (w : Nat), w < 2 ^ 32 →
    step (s.withFetchWord 32 w) = exec (decodeWord (BitVec.ofNat 32 w)) s)

/-- R180, R194: with no turn left, or at an engine turn, a step is the engine's; with BUSY = 0 the engine leaves the
state as it is. -/
def Obligations.StepRunsTheEngine : Prop :=
  (∀ s : State, s.turns = [] → step s = engineStep s) ∧
  (∀ (s : State) (rest : List Turn), s.turns = .engine :: rest → step s = engineStep { s with turns := rest }) ∧
  (∀ s : State, BlockInv s → s.status.busy = false → engineStep s = .next s) ∧
  (∀ s : State, BlockInv s → s.status.busy = true → ∃ t, engineStep s = .next t ∧ t ≠ s)

/-! ## Host registers and STATUS -/

/-- R26: the layout of the STATUS word. -/
def Obligations.StatusWordLayout : Prop :=
  ∀ st : Status, st.word.getLsbD 0 = st.busy ∧ st.word.getLsbD 1 = st.done ∧ st.word.getLsbD 2 = st.err ∧
    st.word.getLsbD 3 = false ∧ st.word.extractLsb' 4 4 = st.ecode.code ∧
    st.word.extractLsb' 8 4 = st.detail.code ∧ st.word.extractLsb' 12 20 = 0#20

/-- R200: the STATUS word after each abnormal outcome, and after success. -/
def Obligations.StatusWordOfEachOutcome : Prop :=
  (Status.raised .capacityError .none).word = 0x00000016#32 ∧
  (Status.raised .decodeError .bufferTooShort).word = 0x00000126#32 ∧
  (Status.raised .decodeError .lengthTooLong).word = 0x00000226#32 ∧
  (Status.raised .decodeError .lengthNotBytes).word = 0x00000326#32 ∧
  (Status.rejected .badConfig Status.clear).word = 0x00000036#32 ∧
  (Status.rejected .illegalCmd Status.clear).word = 0x00000046#32 ∧
  Status.accepted.finished.word = 0x00000002#32 ∧ Status.accepted.word = 0x00000001#32

/-- R190, R22 to R26, R38: a host write to registers 2, 3, 4 is taken whatever BUSY is and to registers 1, 5 and
above 5 changes nothing; a read hands back the register, 0 for CMD and above 5, and changes nothing else. -/
def Obligations.HostRegisterAccess : Prop :=
  ∀ (s : State) (rest : List Turn) (n : Nat) (v : Word),
    (s.turns = .host (.writeReg n v) :: rest → n ≠ 0 →
      step s = .next { s with
        turns := rest,
        width := if n = 2 then v else s.width,
        height := if n = 3 then v else s.height,
        msgLen := if n = 4 then v else s.msgLen }) ∧
    (s.turns = .host (.readReg n) :: rest →
      step s = .next { s with
        turns := rest,
        replies := .reg n (if n = 1 then s.status.word else if n = 2 then s.width else if n = 3 then s.height
          else if n = 4 then s.msgLen else if n = 5 then s.outLen else 0#32) :: s.replies })

/-- R37: a host write to a register other than CMD commutes with an engine step: it never changes an operation in
progress. -/
def Obligations.RegisterWriteCommutesWithEngine : Prop :=
  ∀ (s : State) (n : Nat) (v : Word), n ≠ 0 →
    (∀ t, engineStep s = .next t → engineStep (s.writeReg n v) = .next (t.writeReg n v)) ∧
    (∀ f, engineStep s = .fault f → engineStep (s.writeReg n v) = .fault f)

/-- R28, R29, R25: with BUSY = 0, STATUS and OUT_LEN stay as they are at every move but a write to CMD with OP not 0
and a reset. -/
def Obligations.StatusIsSticky : Prop :=
  ∀ s t : State, BlockInv s → s.status.busy = false → step s = .next t →
    (∀ (word : Word) (rest : List Turn), s.turns = .host (.writeReg 0 word) :: rest → word.toNat % 4 = 0) →
    (∀ rest : List Turn, s.turns ≠ .host .reset :: rest) →
    t.status = s.status ∧ t.outLen = s.outLen

/-- R27: BUSY is set only by an accepted ENCODE or DECODE and cleared only by the end of an operation or reset. -/
def Obligations.BusyChangesOnlyAtStartAndEnd : Prop :=
  ∀ s t : State, BlockInv s → step s = .next t →
    (s.status.busy = false → t.status.busy = true →
      ∃ (word : Word) (rest : List Turn), s.turns = .host (.writeReg 0 word) :: rest ∧
        (word.toNat % 4 = 1 ∨ word.toNat % 4 = 2) ∧ s.requestedCap ≤ s.cfg.pixDepth) ∧
    (s.status.busy = true → t.status.busy = false →
      (∃ rest : List Turn, s.turns = .host .reset :: rest) ∨
      (t.status.done = true ∧ t.phase = .idle ∧ t.opr = .none ∧ engineStep s = .next { t with turns := s.turns }))

/-! ## Host memory access -/

/-- R190: while BUSY = 0 a host write stores its byte in the memory it names and nowhere else, and a host read hands
back the byte and changes nothing. -/
def Obligations.HostMemoryAccess : Prop :=
  ∀ (s : State) (rest : List Turn) (m : MemId) (a : Nat) (v : Byte), BlockInv s → s.status.busy = false →
    a < depthOf s.cfg m →
    (s.turns = .host (.writeMem m a v) :: rest → ∃ t, step s = .next t ∧
      (∀ (m' : MemId) (b : Nat), Memory.read (t.mem m') b =
        if m' = m ∧ b = a then v else Memory.read (s.mem m') b) ∧
      t = { s with turns := rest, pix := t.pix, msgIn := t.msgIn, outPix := t.outPix, msgOut := t.msgOut }) ∧
    (s.turns = .host (.readMem m a) :: rest →
      step s = .next { s with turns := rest, replies := .mem m a (Memory.read (s.mem m) a) :: s.replies })

/-- R78, U6, R190: a host access to a memory while BUSY = 1 has no move, and one beyond the memory has no location. -/
def Obligations.HostMemoryMisuseStops : Prop :=
  ∀ (s : State) (rest : List Turn) (m : MemId) (a : Nat) (v : Byte),
    s.turns = .host (.writeMem m a v) :: rest ∨ s.turns = .host (.readMem m a) :: rest →
    (s.status.busy = true → step s = .refused (.hostMemoryWhileBusy m a)) ∧
    (s.status.busy = false → depthOf s.cfg m ≤ a → step s = .fault (.noSuchLocation m a))

/-- R82: one byte of the host's copy puts OUT_PIX[a] at PIX[a] and nothing else. That the read and the write are one move,
which also hands the byte back, is the model's choice (log entry 14): R190 has no such action. -/
def Obligations.HostCopyMovesOneSample : Prop :=
  ∀ (s : State) (rest : List Turn) (a : Nat), BlockInv s → s.status.busy = false → a < s.cfg.pixDepth →
    s.turns = .host (.copyByte a) :: rest → ∃ t, step s = .next t ∧
      (∀ b, Memory.read t.pix b = if b = a then Memory.read s.outPix a else Memory.read s.pix b) ∧
      t = { s with turns := rest, pix := t.pix, replies := .mem .outPix a (Memory.read s.outPix a) :: s.replies }

/-! ## Bits, frames and sample order -/

/-- R17: setlsb keeps bits 7 to 1, replaces bit 0, and moves the byte by at most 1. -/
def Obligations.SetlsbReplacesOnlyBitZero : Prop :=
  ∀ (v : Byte) (b : Bool), setlsb v b &&& 0xFE#8 = v &&& 0xFE#8 ∧ lsb (setlsb v b) = b ∧
    (setlsb v b).toNat ≤ v.toNat + 1 ∧ v.toNat ≤ (setlsb v b).toNat + 1 ∧ setlsb v (lsb v) = v

/-- R94 (R92, R93): the frame bit function as the spec writes it. -/
def Obligations.FrameBitFormula : Prop :=
  ∀ (l : Nat) (msg : Nat → Byte) (i : Nat), i < 32 + 8 * l → 8 * l < 2 ^ 32 →
    (frameBit l msg i).toNat =
      if i < 32 then 8 * l / 2 ^ (31 - i) % 2
      else (msg ((i - 32) / 8)).toNat / 2 ^ (7 - (i - 32) % 8) % 2

/-- R98, R99: the decoder's sums; every length below 2^32 can be read. -/
def Obligations.DecoderSums : Prop :=
  ∀ pix : Nat → Byte,
    declaredLength pix = ∑ i ∈ Finset.range 32, (lsb (pix i)).toNat * 2 ^ (31 - i) ∧
    declaredLength pix < 2 ^ 32 ∧
    (∀ n, n < 2 ^ 32 → ∃ pix' : Nat → Byte, declaredLength pix' = n) ∧
    ∀ j, (messageChar pix j).toNat =
      ∑ k ∈ Finset.range 8, (lsb (pix (32 + 8 * j + k))).toNat * 2 ^ (7 - k)

/-- The frame reads back: from the samples ENCODE makes, DECODE's reading gives the length and every character. -/
def Obligations.FrameReadsBack : Prop :=
  ∀ (w h l : Nat) (msg pix : Nat → Byte) (out : List Byte), 8 * l < 2 ^ 32 →
    encodeImage w h l msg pix = .ok out →
    out.length = 3 * w * h ∧ decodeImage w h (fun i => out.getD i 0#8) = .ok ((List.range l).map msg)

/-- R62: sample index and pixel coordinates are inverse to each other. -/
def Obligations.SampleOrder : Prop :=
  ∀ w h : Nat,
    (∀ y x c, y < h → x < w → c < 3 → sampleIndex w y x c < capacityOf w h ∧
      channelOf (sampleIndex w y x c) = c ∧ columnOf w (sampleIndex w y x c) = x ∧
      rowOf w (sampleIndex w y x c) = y) ∧
    (∀ i, i < capacityOf w h → rowOf w i < h ∧ columnOf w i < w ∧ channelOf i < 3 ∧
      sampleIndex w (rowOf w i) (columnOf w i) (channelOf i) = i)

/-! ## Engine steps -/

/-- R123: the capacity check. -/
def Obligations.CapacityCheckStep : Prop :=
  ∀ s : State, s.phase = .eCheck →
    engineStep s = if s.flen.toNat > s.cap.toNat
      then .next { s with
        status := { busy := false, done := true, err := true, ecode := .capacityError, detail := .none },
        opr := .none, phase := .idle }
      else .next { s with phase := .eEmbed }

/-- R124: one step of the pixel bit writer; FLEN is at least 32. -/
def Obligations.EmbedStep : Prop :=
  ∀ s : State, BlockInv s → s.phase = .eEmbed →
    (s.idx.toNat < s.flen.toNat → ∃ t, engineStep s = .next t ∧ t.idx.toNat = s.idx.toNat + 1 ∧
      (∀ a, Memory.read t.outPix a = if a = s.idx.toNat
        then setlsb (Memory.read s.pix s.idx.toNat) (frameBit s.llen.toNat (Memory.read s.msgIn) s.idx.toNat)
        else Memory.read s.outPix a) ∧
      t = { s with idx := t.idx, outPix := t.outPix }) ∧
    32 ≤ s.flen.toNat ∧
    (¬ s.idx.toNat < s.flen.toNat → s.idx.toNat = s.flen.toNat ∧ engineStep s = .next { s with phase := .eCopy })

/-- R126 (R205): one step of the rest of the copy. -/
def Obligations.CopyStep : Prop :=
  ∀ s : State, BlockInv s → s.phase = .eCopy →
    (s.idx.toNat < s.cap.toNat → ∃ t, engineStep s = .next t ∧ t.idx.toNat = s.idx.toNat + 1 ∧
      (∀ a, Memory.read t.outPix a = if a = s.idx.toNat then Memory.read s.pix s.idx.toNat
        else Memory.read s.outPix a) ∧
      t = { s with idx := t.idx, outPix := t.outPix }) ∧
    (¬ s.idx.toNat < s.cap.toNat → s.idx.toNat = s.cap.toNat ∧
      engineStep s = .next { s with
        status := { s.status with busy := false, done := true }, opr := .none, phase := .idle })

/-- R153: the buffer check. -/
def Obligations.BufferCheckStep : Prop :=
  ∀ s : State, s.phase = .dCheck →
    engineStep s = if s.cap.toNat < 32
      then .next { s with
        status := { busy := false, done := true, err := true, ecode := .decodeError, detail := .bufferTooShort },
        opr := .none, phase := .idle }
      else .next { s with phase := .dHdr }

/-- R154: one step of the length reader; the `mod 2^32` never discards a 1 bit, and after the 32nd reading step PLEN is
the length the image declares. -/
def Obligations.HeaderStep : Prop :=
  ∀ s : State, BlockInv s → s.phase = .dHdr →
    (s.idx.toNat < 32 → ∃ t, engineStep s = .next t ∧ t.idx.toNat = s.idx.toNat + 1 ∧
      t.plen.toNat = (2 * s.plen.toNat + (lsb (Memory.read s.pix s.idx.toNat)).toNat) % 2 ^ 32 ∧
      t.plen.toNat = 2 * s.plen.toNat + (lsb (Memory.read s.pix s.idx.toNat)).toNat ∧
      t = { s with idx := t.idx, plen := t.plen }) ∧
    (¬ s.idx.toNat < 32 → s.idx.toNat = 32 ∧ engineStep s = .next { s with phase := .dLenchk } ∧
      (Progress s → s.plen.toNat = declaredLength (Memory.read s.pix)))

/-- R155: the two checks of the declared length, in this order. -/
def Obligations.LengthCheckStep : Prop :=
  ∀ s : State, s.phase = .dLenchk →
    engineStep s = if 32 + s.plen.toNat > s.cap.toNat
      then .next { s with
        status := { busy := false, done := true, err := true, ecode := .decodeError, detail := .lengthTooLong },
        opr := .none, phase := .idle }
      else if s.plen.toNat % 8 ≠ 0
      then .next { s with
        status := { busy := false, done := true, err := true, ecode := .decodeError, detail := .lengthNotBytes },
        opr := .none, phase := .idle }
      else .next { s with phase := .dPayload }

/-- R156 (R205): one step of the payload reader; the byte stored is made of the last 8 bits read, and no partial byte is
pending at the end. -/
def Obligations.PayloadStep : Prop :=
  ∀ s : State, BlockInv s → s.phase = .dPayload →
    (s.idx.toNat < 32 + s.plen.toNat → ∃ t, engineStep s = .next t ∧ t.idx.toNat = s.idx.toNat + 1 ∧
      t.shreg.toNat = (2 * s.shreg.toNat + (lsb (Memory.read s.pix s.idx.toNat)).toNat) % 256 ∧
      (Progress s → (s.idx.toNat - 32) % 8 = 7 →
        t.shreg = messageChar (Memory.read s.pix) ((s.idx.toNat - 32) / 8)) ∧
      (∀ a, Memory.read t.msgOut a = if (s.idx.toNat - 32) % 8 = 7 ∧ a = (s.idx.toNat - 32) / 8 then t.shreg
        else Memory.read s.msgOut a) ∧
      t = { s with idx := t.idx, shreg := t.shreg, msgOut := t.msgOut }) ∧
    (¬ s.idx.toNat < 32 + s.plen.toNat → s.idx.toNat = 32 + s.plen.toNat ∧ (s.idx.toNat - 32) % 8 = 0 ∧
      ∃ t, engineStep s = .next t ∧ t.outLen.toNat = s.plen.toNat / 8 ∧
        t = { s with outLen := t.outLen, status := { s.status with busy := false, done := true }, opr := .none,
                     phase := .idle })

/-- R195: every transition of PHASE, and no other. -/
def Obligations.PhaseTransitions : Prop :=
  (∀ s : State, BlockInv s → ∃ t, engineStep s = .next t ∧
    t.phase = match s.phase with
      | .idle => .idle
      | .eCheck => if s.flen.toNat > s.cap.toNat then .idle else .eEmbed
      | .eEmbed => if s.idx.toNat < s.flen.toNat then .eEmbed else .eCopy
      | .eCopy => if s.idx.toNat < s.cap.toNat then .eCopy else .idle
      | .dCheck => if s.cap.toNat < 32 then .idle else .dHdr
      | .dHdr => if s.idx.toNat < 32 then .dHdr else .dLenchk
      | .dLenchk =>
        if 32 + s.plen.toNat > s.cap.toNat then .idle
        else if s.plen.toNat % 8 ≠ 0 then .idle else .dPayload
      | .dPayload => if s.idx.toNat < 32 + s.plen.toNat then .dPayload else .idle) ∧
  (∀ (i : Instr) (s t : State), exec i s = .next t →
    t.phase = if s.status.busy = false ∧ s.requestedCap ≤ s.cfg.pixDepth then
        (if i = .encode then .eCheck else if i = .decode then .dCheck else s.phase)
      else s.phase) ∧
  (∀ s t : State, hostReset s = .next t → t.phase = .idle) ∧
  (∀ (s t : State) (a : HostAction) (rest : List Turn), s.turns = .host a :: rest →
    (∀ v, a ≠ .writeReg 0 v) → a ≠ .reset → a ≠ .wait → step s = .next t → t.phase = s.phase)

/-- R72, R133, R164: no engine step and no command writes PIX or MSG_IN, in any state, with or without error; and an
engine step never writes a host argument register. -/
def Obligations.InputsAreNeverWritten : Prop :=
  (∀ s t : State, engineStep s = .next t →
    t.pix = s.pix ∧ t.msgIn = s.msgIn ∧ t.width = s.width ∧ t.height = s.height ∧ t.msgLen = s.msgLen ∧
    t.cap = s.cap ∧ t.flen = s.flen ∧ t.llen = s.llen ∧ t.cfg = s.cfg ∧ t.turns = s.turns ∧
    t.replies = s.replies ∧ t.abandoned = s.abandoned) ∧
  (∀ (i : Instr) (s t : State), exec i s = .next t → t.pix = s.pix ∧ t.msgIn = s.msgIn)

/-- R35: IDX is set to 0 at acceptance, and an engine step leaves it or advances it by exactly 1, the latter exactly
when the step reads or writes a sample; it never passes CAP. -/
def Obligations.IndexNeverSkips : Prop :=
  ∀ s : State, BlockInv s → ∃ t, engineStep s = .next t ∧
    t.idx.toNat = s.idx.toNat +
      (if (s.phase = .eEmbed ∧ s.idx.toNat < s.flen.toNat) ∨ (s.phase = .eCopy ∧ s.idx.toNat < s.cap.toNat) ∨
          (s.phase = .dHdr ∧ s.idx.toNat < 32) ∨ (s.phase = .dPayload ∧ s.idx.toNat < 32 + s.plen.toNat)
        then 1 else 0) ∧
    (s.status.busy = true → t.idx.toNat ≤ s.cap.toNat)

/-! ## Invariants -/

/-- The invariant and the progress invariant hold after reset, for every legal configuration. -/
def Obligations.ResetMeetsInvariant : Prop :=
  BlockInv State.reset ∧ Progress State.reset ∧
    ∀ c : Config, c.legal = true → BlockInv (State.resetWith c) ∧ Progress (State.resetWith c)

/-- R48: every move of the machine keeps the invariant. -/
def Obligations.StepKeepsInvariant : Prop := ∀ s t : State, BlockInv s → step s = .next t → BlockInv t

/-- Every move keeps what the memories and registers hold of the result in progress. -/
def Obligations.StepKeepsProgress : Prop :=
  ∀ s t : State, BlockInv s → Progress s → step s = .next t → Progress t

/-- R70, R218: in a state that meets the invariant the engine never leaves a memory; the machine stops only at a host
memory access that is made while BUSY = 1 or beyond the memory. -/
def Obligations.OnlyHostMisuseStops : Prop :=
  ∀ s : State, BlockInv s →
    (∃ t, step s = .next t) ∨
    (∃ (m : MemId) (a : Nat) (rest : List Turn),
      ((∃ v, s.turns = .host (.writeMem m a v) :: rest) ∨ s.turns = .host (.readMem m a) :: rest ∨
        (m = .outPix ∧ s.turns = .host (.copyByte a) :: rest)) ∧
      (s.status.busy = true ∨ depthOf s.cfg m ≤ a))

/-! ## Whole operations -/

/-- R121, R127, R128: ENCODE from an idle block ends exactly as the function says: after CAP + 3 engine steps with the
image in OUT_PIX, or after one with CapacityError and nothing written. -/
def Obligations.EncodeRunsToItsFunction : Prop :=
  ∀ s : State, BlockInv s → s.idleAlone → s.requestedCap ≤ s.cfg.pixDepth →
    ∃ t, exec .encode s = .next t ∧
      match encodeImage s.width.toNat s.height.toNat s.msgLen.toNat (Memory.read s.msgIn) (Memory.read s.pix) with
      | .ok out => ∃ u, runs (s.requestedCap + 3) t = .next u ∧ bytesOf u.outPix s.requestedCap = out ∧
          (∀ a, s.requestedCap ≤ a → Memory.read u.outPix a = Memory.read s.outPix a) ∧
          u.idx.toNat = s.requestedCap ∧
          u = { t with
            status := { busy := false, done := true, err := false, ecode := .none, detail := .none },
            opr := .none, phase := .idle, idx := u.idx, outPix := u.outPix }
      | .error c => c = .capacityError ∧ runs 1 t = .next { t with
            status := { busy := false, done := true, err := true, ecode := .capacityError, detail := .none },
            opr := .none, phase := .idle }

/-- R127: the schedule of a successful ENCODE: where the engine stands after `k` steps and what OUT_PIX then holds. -/
def Obligations.EncodeSchedule : Prop :=
  ∀ s : State, BlockInv s → s.idleAlone → s.requestedCap ≤ s.cfg.pixDepth →
    frameLength s.msgLen.toNat ≤ s.requestedCap →
    ∃ t, exec .encode s = .next t ∧ ∀ k, k ≤ s.requestedCap + 2 → ∃ v, runs k t = .next v ∧
      v.phase = (if k = 0 then .eCheck else if k ≤ frameLength s.msgLen.toNat + 1 then .eEmbed else .eCopy) ∧
      v.idx.toNat = (if k ≤ frameLength s.msgLen.toNat + 1 then k - 1 else k - 2) ∧
      v.status.word = 0x00000001#32 ∧
      v = { t with phase := v.phase, idx := v.idx, outPix := v.outPix } ∧
      ∀ a, Memory.read v.outPix a = if a < v.idx.toNat
        then encodedSample s.msgLen.toNat (Memory.read s.msgIn) (Memory.read s.pix) a
        else Memory.read s.outPix a

/-- R132, R249: after a successful ENCODE every output sample agrees with the input in bits 7 to 1, carries its frame
bit below FLEN, and is the input sample from FLEN on. -/
def Obligations.EncodeChangesOnlyLowBits : Prop :=
  ∀ s t u : State, ∀ n : Nat, BlockInv s → s.idleAlone → s.requestedCap ≤ s.cfg.pixDepth →
    exec .encode s = .next t → runs n t = .next u → u.status.busy = false → u.status.err = false →
    ∀ i, i < s.requestedCap →
      Memory.read u.outPix i &&& 0xFE#8 = Memory.read s.pix i &&& 0xFE#8 ∧
      (i < 32 + 8 * s.msgLen.toNat →
        lsb (Memory.read u.outPix i) = frameBit s.msgLen.toNat (Memory.read s.msgIn) i) ∧
      (32 + 8 * s.msgLen.toNat ≤ i → Memory.read u.outPix i = Memory.read s.pix i)

/-- R129, R130, R138: an ENCODE that was accepted ends without error exactly when the image has 32 samples and the
message has at most (CAP - 32) div 8 characters. -/
def Obligations.EncodeSucceedsUpToLargestMessage : Prop :=
  ∀ s t u : State, ∀ n : Nat, BlockInv s → s.idleAlone → s.requestedCap ≤ s.cfg.pixDepth →
    exec .encode s = .next t → runs n t = .next u → u.status.busy = false →
    (u.status.err = false ↔ 32 ≤ s.requestedCap ∧ s.msgLen.toNat ≤ (s.requestedCap - 32) / 8) ∧
    (u.status.err = true → u.status.word = 0x00000016#32)

/-- R141: ENCODE is a function of W, H, L, the CAP samples and the L characters. -/
def Obligations.EncodeDependsOnlyOnItsOperands : Prop :=
  ∀ s s' t t' u u' : State, ∀ n n' : Nat, BlockInv s → BlockInv s' → s.idleAlone → s'.idleAlone → s'.cfg = s.cfg →
    s'.width = s.width → s'.height = s.height → s'.msgLen = s.msgLen → s.requestedCap ≤ s.cfg.pixDepth →
    (∀ i, i < s.requestedCap → Memory.read s'.pix i = Memory.read s.pix i) →
    (∀ j, j < s.msgLen.toNat → Memory.read s'.msgIn j = Memory.read s.msgIn j) →
    exec .encode s = .next t → exec .encode s' = .next t' → runs n t = .next u → runs n' t' = .next u' →
    u.status.busy = false → u'.status.busy = false →
    u'.status = u.status ∧ u'.outLen = u.outLen ∧
      (u.status.err = false → ∀ i, i < s.requestedCap → Memory.read u'.outPix i = Memory.read u.outPix i)

/-- R152, R157, R158: DECODE from an idle block ends exactly as the function says: after PLEN + 36 engine steps with
the message in MSG_OUT, or after 1 or 35 with its DecodeError and nothing written. -/
def Obligations.DecodeRunsToItsFunction : Prop :=
  ∀ s : State, BlockInv s → s.idleAlone → s.requestedCap ≤ s.cfg.pixDepth →
    ∃ t, exec .decode s = .next t ∧
      match decodeImage s.width.toNat s.height.toNat (Memory.read s.pix) with
      | .ok msg => ∃ u, runs (declaredLength (Memory.read s.pix) + 36) t = .next u ∧
          bytesOf u.msgOut msg.length = msg ∧ u.outLen.toNat = msg.length ∧
          (∀ a, msg.length ≤ a → Memory.read u.msgOut a = Memory.read s.msgOut a) ∧
          u.plen.toNat = 8 * msg.length ∧ u.idx.toNat = 32 + 8 * msg.length ∧
          u = { t with
            status := { busy := false, done := true, err := false, ecode := .none, detail := .none },
            opr := .none, phase := .idle, idx := u.idx, plen := u.plen, shreg := u.shreg, outLen := u.outLen,
            msgOut := u.msgOut }
      | .error d => ∃ u, runs (if d = .bufferTooShort then 1 else 35) t = .next u ∧
          u = { t with
            status := { busy := false, done := true, err := true, ecode := .decodeError, detail := d },
            opr := .none, phase := .idle, idx := u.idx, plen := u.plen }

/-- R157: the schedule of a successful DECODE. -/
def Obligations.DecodeSchedule : Prop :=
  ∀ (s : State) (msg : List Byte), BlockInv s → s.idleAlone → s.requestedCap ≤ s.cfg.pixDepth →
    decodeImage s.width.toNat s.height.toNat (Memory.read s.pix) = .ok msg →
    ∃ t, exec .decode s = .next t ∧ ∀ k, k ≤ 8 * msg.length + 35 → ∃ v, runs k t = .next v ∧
      v.phase = (if k = 0 then .dCheck else if k ≤ 33 then .dHdr else if k = 34 then .dLenchk else .dPayload) ∧
      v.idx.toNat = (if k ≤ 33 then k - 1 else if k = 34 then 32 else k - 3) ∧
      v.status.word = 0x00000001#32 ∧
      v = { t with phase := v.phase, idx := v.idx, plen := v.plen, shreg := v.shreg, msgOut := v.msgOut } ∧
      ∀ a, Memory.read v.msgOut a = if a < (v.idx.toNat - 32) / 8
        then messageChar (Memory.read s.pix) a else Memory.read s.msgOut a

/-- R165, R166: DECODE reads bit 0 of the samples of the frame and nothing else, and W and H only through the two
comparisons with CAP. -/
def Obligations.DecodeDependsOnlyOnFrameLowBits : Prop :=
  ∀ s s' t t' u u' : State, ∀ n n' : Nat, BlockInv s → BlockInv s' → s.idleAlone → s'.idleAlone →
    s.requestedCap ≤ s.cfg.pixDepth → s'.requestedCap ≤ s'.cfg.pixDepth →
    (s'.requestedCap = s.requestedCap ∨
      (32 + declaredLength (Memory.read s.pix) ≤ s.requestedCap ∧
        32 + declaredLength (Memory.read s.pix) ≤ s'.requestedCap)) →
    (∀ i, i < 32 + declaredLength (Memory.read s.pix) →
      lsb (Memory.read s'.pix i) = lsb (Memory.read s.pix i)) →
    exec .decode s = .next t → exec .decode s' = .next t' → runs n t = .next u → runs n' t' = .next u' →
    u.status.busy = false → u'.status.busy = false →
    u'.status = u.status ∧ u'.outLen = u.outLen ∧
      ∀ j, j < u.outLen.toNat → Memory.read u'.msgOut j = Memory.read u.msgOut j

/-- R163: a second DECODE of the same image ends in the very state the first one ended in. -/
def Obligations.DecodeTwiceIsDecodeOnce : Prop :=
  ∀ s t u : State, ∀ n : Nat, BlockInv s → s.idleAlone → s.requestedCap ≤ s.cfg.pixDepth →
    exec .decode s = .next t → runs n t = .next u → u.status.busy = false →
    ∃ t', exec .decode u = .next t' ∧ runs n t' = .next u

/-- R134, R241: what ENCODE wrote, moved to PIX without a change of any bit 0, DECODE returns. -/
def Obligations.RoundTrip : Prop :=
  ∀ s : State, BlockInv s → s.idleAlone → s.requestedCap ≤ s.cfg.pixDepth →
    32 + 8 * s.msgLen.toNat ≤ s.requestedCap →
    ∃ t u, exec .encode s = .next t ∧ runs (s.requestedCap + 3) t = .next u ∧ u.status.word = 0x00000002#32 ∧
      ∀ v : State, BlockInv v → v.idleAlone → v.cfg = s.cfg → v.width = s.width → v.height = s.height →
        (∀ i, i < s.requestedCap → lsb (Memory.read v.pix i) = lsb (Memory.read u.outPix i)) →
        ∃ x y, exec .decode v = .next x ∧ runs (8 * s.msgLen.toNat + 36) x = .next y ∧
          y.status.word = 0x00000002#32 ∧ y.outLen = s.msgLen ∧
          ∀ j, j < s.msgLen.toNat → Memory.read y.msgOut j = Memory.read s.msgIn j

/-- R210, R71: an operation that ends in an error, or a command that is rejected, leaves all four memories as they
were. -/
def Obligations.ErrorsLeaveMemoriesAlone : Prop :=
  ∀ (i : Instr) (s t u : State) (n : Nat), BlockInv s → s.idleAlone → exec i s = .next t → runs n t = .next u →
    u.status.err = true → (∀ m : MemId, u.mem m = s.mem m) ∧ (i ≠ .nop → u.outLen = 0#32)

/-- R193, R188: from every state the block can be in, an operation in progress ends after at most CAP + 4 more engine
steps, with BUSY 0 and DONE 1. -/
def Obligations.EveryOperationEnds : Prop :=
  ∀ s : State, BlockInv s → s.turns = [] → s.status.busy = true →
    ∃ k u, k ≤ s.cap.toNat + 4 ∧ runs k s = .next u ∧ u.status.busy = false ∧ u.status.done = true ∧
      u.phase = .idle ∧ u.opr = .none ∧ ∀ m, runs (k + m) s = .next u
end

