-- ==== Sys2Proof/Laws/Bits.lean ====
section
/-! SUPPORT. Bits of a byte (R17), and the value of a sequence of bits read most significant first (R98, R99). -/

namespace Sys2Proof.Machine

@[simp] theorem lsb_setlsb (v : Byte) (b : Bool) : lsb (setlsb v b) = b := by
  cases b <;> simp [lsb, setlsb]

theorem setlsb_upper (v : Byte) (b : Bool) : setlsb v b &&& 0xFE#8 = v &&& 0xFE#8 := by
  revert v b; decide

theorem bitsValue_succ (b : Nat → Bool) (n : Nat) : bitsValue b (n + 1) = 2 * bitsValue b n + (b n).toNat := rfl

theorem bitsValue_lt (b : Nat → Bool) (n : Nat) : bitsValue b n < 2 ^ n := by
  induction n with
  | zero => simp [bitsValue]
  | succ n ih =>
    have := (b n).toNat_lt
    rw [bitsValue_succ, Nat.pow_succ]
    omega

/-- Only the bits read matter. -/
theorem bitsValue_congr {b c : Nat → Bool} {n : Nat} (h : ∀ i < n, b i = c i) : bitsValue b n = bitsValue c n := by
  induction n with
  | zero => rfl
  | succ n ih =>
    rw [bitsValue_succ, bitsValue_succ, ih fun i hi => h i (by omega), h n (by omega)]

/-- Reading on from position `m` shifts what was read before and adds the value of the rest. -/
theorem bitsValue_add (b : Nat → Bool) (m n : Nat) :
    bitsValue b (m + n) = 2 ^ n * bitsValue b m + bitsValue (fun i => b (m + i)) n := by
  induction n with
  | zero => simp [bitsValue]
  | succ n ih =>
    rw [← Nat.add_assoc, bitsValue_succ, bitsValue_succ, ih, Nat.pow_succ]
    ring

/-- The last `n` bits read are the value modulo `2 ^ n`. -/
theorem bitsValue_mod (b : Nat → Bool) (m n : Nat) :
    bitsValue b (m + n) % 2 ^ n = bitsValue (fun i => b (m + i)) n := by
  rw [bitsValue_add, Nat.mul_add_mod, Nat.mod_eq_of_lt (bitsValue_lt _ _)]

/-- Reading the bits of `v` from bit `n - 1` down to bit 0 gives `v` modulo `2 ^ n`. -/
theorem bitsValue_testBit (v n : Nat) : bitsValue (fun i => v.testBit (n - 1 - i)) n = v % 2 ^ n := by
  induction n generalizing v with
  | zero => simp [bitsValue, Nat.mod_one]
  | succ n ih =>
    rw [bitsValue_succ]
    have h1 : bitsValue (fun i => v.testBit (n + 1 - 1 - i)) n = v / 2 % 2 ^ n := by
      rw [← ih (v / 2)]
      refine bitsValue_congr fun i hi => ?_
      have : n + 1 - 1 - i = (n - 1 - i) + 1 := by omega
      rw [this, Nat.testBit_succ]
    have h2 : (v.testBit (n + 1 - 1 - n)).toNat = v % 2 := by
      have : n + 1 - 1 - n = 0 := by omega
      rw [this, Nat.testBit_zero]
      rcases Nat.mod_two_eq_zero_or_one v with h | h <;> simp [h]
    rw [h1, h2, Nat.pow_succ, Nat.mul_comm (2 ^ n) 2, Nat.mod_mul]
    ring

theorem lengthBit_eq (l i : Nat) : (lengthBit l i).toNat = 8 * l / 2 ^ (31 - i) % 2 := by
  unfold lengthBit
  rw [Nat.testBit_eq_decide_div_mod_eq]
  rcases Nat.mod_two_eq_zero_or_one (8 * l / 2 ^ (31 - i)) with h | h <;> simp [h]

theorem charBit_eq (c : Byte) (j : Nat) : (charBit c j).toNat = c.toNat / 2 ^ (7 - j % 8) % 2 := by
  unfold charBit
  rw [← BitVec.testBit_toNat, Nat.testBit_eq_decide_div_mod_eq]
  rcases Nat.mod_two_eq_zero_or_one (c.toNat / 2 ^ (7 - j % 8)) with h | h <;> simp [h]

/-- The 32 length bits of a frame read back as `8 x L` (R92, R98). -/
theorem bitsValue_lengthBit {l : Nat} (h : 8 * l < 2 ^ 32) : bitsValue (lengthBit l) 32 = 8 * l := by
  have : lengthBit l = fun i => (8 * l).testBit (32 - 1 - i) := rfl
  rw [this, bitsValue_testBit, Nat.mod_eq_of_lt h]

/-- The 8 payload bits of a character read back as the character (R93, R99). -/
theorem bitsValue_charBit (c : Byte) (j : Nat) : bitsValue (fun k => charBit c (8 * j + k)) 8 = c.toNat := by
  have : bitsValue (fun k => charBit c (8 * j + k)) 8 = bitsValue (fun i => c.toNat.testBit (8 - 1 - i)) 8 := by
    refine bitsValue_congr fun k hk => ?_
    unfold charBit
    have : (8 * j + k) % 8 = k := by omega
    rw [this, ← BitVec.testBit_toNat]
  rw [this, bitsValue_testBit, Nat.mod_eq_of_lt c.isLt]

end Sys2Proof.Machine
end

