-- ==== Sys2Proof/Laws/State.lean ====
section
/-! SUPPORT. One lemma per field per named update of State: what the update leaves alone and what it writes. -/

namespace Sys2Proof.Machine

/-! `State.goto` -/

@[simp] theorem State.goto_status (s : State) (p : Phase) : (s.goto p).status = s.status := rfl
@[simp] theorem State.goto_width (s : State) (p : Phase) : (s.goto p).width = s.width := rfl
@[simp] theorem State.goto_height (s : State) (p : Phase) : (s.goto p).height = s.height := rfl
@[simp] theorem State.goto_msgLen (s : State) (p : Phase) : (s.goto p).msgLen = s.msgLen := rfl
@[simp] theorem State.goto_outLen (s : State) (p : Phase) : (s.goto p).outLen = s.outLen := rfl
@[simp] theorem State.goto_opr (s : State) (p : Phase) : (s.goto p).opr = s.opr := rfl
@[simp] theorem State.goto_phase (s : State) (p : Phase) : (s.goto p).phase = p := rfl
@[simp] theorem State.goto_cap (s : State) (p : Phase) : (s.goto p).cap = s.cap := rfl
@[simp] theorem State.goto_flen (s : State) (p : Phase) : (s.goto p).flen = s.flen := rfl
@[simp] theorem State.goto_llen (s : State) (p : Phase) : (s.goto p).llen = s.llen := rfl
@[simp] theorem State.goto_plen (s : State) (p : Phase) : (s.goto p).plen = s.plen := rfl
@[simp] theorem State.goto_idx (s : State) (p : Phase) : (s.goto p).idx = s.idx := rfl
@[simp] theorem State.goto_shreg (s : State) (p : Phase) : (s.goto p).shreg = s.shreg := rfl
@[simp] theorem State.goto_pix (s : State) (p : Phase) : (s.goto p).pix = s.pix := rfl
@[simp] theorem State.goto_msgIn (s : State) (p : Phase) : (s.goto p).msgIn = s.msgIn := rfl
@[simp] theorem State.goto_outPix (s : State) (p : Phase) : (s.goto p).outPix = s.outPix := rfl
@[simp] theorem State.goto_msgOut (s : State) (p : Phase) : (s.goto p).msgOut = s.msgOut := rfl
@[simp] theorem State.goto_cfg (s : State) (p : Phase) : (s.goto p).cfg = s.cfg := rfl
@[simp] theorem State.goto_turns (s : State) (p : Phase) : (s.goto p).turns = s.turns := rfl
@[simp] theorem State.goto_replies (s : State) (p : Phase) : (s.goto p).replies = s.replies := rfl
@[simp] theorem State.goto_abandoned (s : State) (p : Phase) : (s.goto p).abandoned = s.abandoned := rfl

/-! `State.advance` -/

@[simp] theorem State.advance_status (s : State) : (s.advance).status = s.status := rfl
@[simp] theorem State.advance_width (s : State) : (s.advance).width = s.width := rfl
@[simp] theorem State.advance_height (s : State) : (s.advance).height = s.height := rfl
@[simp] theorem State.advance_msgLen (s : State) : (s.advance).msgLen = s.msgLen := rfl
@[simp] theorem State.advance_outLen (s : State) : (s.advance).outLen = s.outLen := rfl
@[simp] theorem State.advance_opr (s : State) : (s.advance).opr = s.opr := rfl
@[simp] theorem State.advance_phase (s : State) : (s.advance).phase = s.phase := rfl
@[simp] theorem State.advance_cap (s : State) : (s.advance).cap = s.cap := rfl
@[simp] theorem State.advance_flen (s : State) : (s.advance).flen = s.flen := rfl
@[simp] theorem State.advance_llen (s : State) : (s.advance).llen = s.llen := rfl
@[simp] theorem State.advance_plen (s : State) : (s.advance).plen = s.plen := rfl
@[simp] theorem State.advance_idx (s : State) : (s.advance).idx = s.idx + 1#33 := rfl
@[simp] theorem State.advance_shreg (s : State) : (s.advance).shreg = s.shreg := rfl
@[simp] theorem State.advance_pix (s : State) : (s.advance).pix = s.pix := rfl
@[simp] theorem State.advance_msgIn (s : State) : (s.advance).msgIn = s.msgIn := rfl
@[simp] theorem State.advance_outPix (s : State) : (s.advance).outPix = s.outPix := rfl
@[simp] theorem State.advance_msgOut (s : State) : (s.advance).msgOut = s.msgOut := rfl
@[simp] theorem State.advance_cfg (s : State) : (s.advance).cfg = s.cfg := rfl
@[simp] theorem State.advance_turns (s : State) : (s.advance).turns = s.turns := rfl
@[simp] theorem State.advance_replies (s : State) : (s.advance).replies = s.replies := rfl
@[simp] theorem State.advance_abandoned (s : State) : (s.advance).abandoned = s.abandoned := rfl

/-! `State.finishOk` -/

@[simp] theorem State.finishOk_status (s : State) : (s.finishOk).status = s.status.finished := rfl
@[simp] theorem State.finishOk_width (s : State) : (s.finishOk).width = s.width := rfl
@[simp] theorem State.finishOk_height (s : State) : (s.finishOk).height = s.height := rfl
@[simp] theorem State.finishOk_msgLen (s : State) : (s.finishOk).msgLen = s.msgLen := rfl
@[simp] theorem State.finishOk_outLen (s : State) : (s.finishOk).outLen = s.outLen := rfl
@[simp] theorem State.finishOk_opr (s : State) : (s.finishOk).opr = .none := rfl
@[simp] theorem State.finishOk_phase (s : State) : (s.finishOk).phase = .idle := rfl
@[simp] theorem State.finishOk_cap (s : State) : (s.finishOk).cap = s.cap := rfl
@[simp] theorem State.finishOk_flen (s : State) : (s.finishOk).flen = s.flen := rfl
@[simp] theorem State.finishOk_llen (s : State) : (s.finishOk).llen = s.llen := rfl
@[simp] theorem State.finishOk_plen (s : State) : (s.finishOk).plen = s.plen := rfl
@[simp] theorem State.finishOk_idx (s : State) : (s.finishOk).idx = s.idx := rfl
@[simp] theorem State.finishOk_shreg (s : State) : (s.finishOk).shreg = s.shreg := rfl
@[simp] theorem State.finishOk_pix (s : State) : (s.finishOk).pix = s.pix := rfl
@[simp] theorem State.finishOk_msgIn (s : State) : (s.finishOk).msgIn = s.msgIn := rfl
@[simp] theorem State.finishOk_outPix (s : State) : (s.finishOk).outPix = s.outPix := rfl
@[simp] theorem State.finishOk_msgOut (s : State) : (s.finishOk).msgOut = s.msgOut := rfl
@[simp] theorem State.finishOk_cfg (s : State) : (s.finishOk).cfg = s.cfg := rfl
@[simp] theorem State.finishOk_turns (s : State) : (s.finishOk).turns = s.turns := rfl
@[simp] theorem State.finishOk_replies (s : State) : (s.finishOk).replies = s.replies := rfl
@[simp] theorem State.finishOk_abandoned (s : State) : (s.finishOk).abandoned = s.abandoned := rfl

/-! `State.raise` -/

@[simp] theorem State.raise_status (s : State) (c : ErrCode) (d : Detail) : (s.raise c d).status = Status.raised c d := rfl
@[simp] theorem State.raise_width (s : State) (c : ErrCode) (d : Detail) : (s.raise c d).width = s.width := rfl
@[simp] theorem State.raise_height (s : State) (c : ErrCode) (d : Detail) : (s.raise c d).height = s.height := rfl
@[simp] theorem State.raise_msgLen (s : State) (c : ErrCode) (d : Detail) : (s.raise c d).msgLen = s.msgLen := rfl
@[simp] theorem State.raise_outLen (s : State) (c : ErrCode) (d : Detail) : (s.raise c d).outLen = s.outLen := rfl
@[simp] theorem State.raise_opr (s : State) (c : ErrCode) (d : Detail) : (s.raise c d).opr = .none := rfl
@[simp] theorem State.raise_phase (s : State) (c : ErrCode) (d : Detail) : (s.raise c d).phase = .idle := rfl
@[simp] theorem State.raise_cap (s : State) (c : ErrCode) (d : Detail) : (s.raise c d).cap = s.cap := rfl
@[simp] theorem State.raise_flen (s : State) (c : ErrCode) (d : Detail) : (s.raise c d).flen = s.flen := rfl
@[simp] theorem State.raise_llen (s : State) (c : ErrCode) (d : Detail) : (s.raise c d).llen = s.llen := rfl
@[simp] theorem State.raise_plen (s : State) (c : ErrCode) (d : Detail) : (s.raise c d).plen = s.plen := rfl
@[simp] theorem State.raise_idx (s : State) (c : ErrCode) (d : Detail) : (s.raise c d).idx = s.idx := rfl
@[simp] theorem State.raise_shreg (s : State) (c : ErrCode) (d : Detail) : (s.raise c d).shreg = s.shreg := rfl
@[simp] theorem State.raise_pix (s : State) (c : ErrCode) (d : Detail) : (s.raise c d).pix = s.pix := rfl
@[simp] theorem State.raise_msgIn (s : State) (c : ErrCode) (d : Detail) : (s.raise c d).msgIn = s.msgIn := rfl
@[simp] theorem State.raise_outPix (s : State) (c : ErrCode) (d : Detail) : (s.raise c d).outPix = s.outPix := rfl
@[simp] theorem State.raise_msgOut (s : State) (c : ErrCode) (d : Detail) : (s.raise c d).msgOut = s.msgOut := rfl
@[simp] theorem State.raise_cfg (s : State) (c : ErrCode) (d : Detail) : (s.raise c d).cfg = s.cfg := rfl
@[simp] theorem State.raise_turns (s : State) (c : ErrCode) (d : Detail) : (s.raise c d).turns = s.turns := rfl
@[simp] theorem State.raise_replies (s : State) (c : ErrCode) (d : Detail) : (s.raise c d).replies = s.replies := rfl
@[simp] theorem State.raise_abandoned (s : State) (c : ErrCode) (d : Detail) : (s.raise c d).abandoned = s.abandoned := rfl

/-! `State.reject` -/

@[simp] theorem State.reject_status (s : State) (c : ErrCode) : (s.reject c).status = s.status.rejected c := rfl
@[simp] theorem State.reject_width (s : State) (c : ErrCode) : (s.reject c).width = s.width := rfl
@[simp] theorem State.reject_height (s : State) (c : ErrCode) : (s.reject c).height = s.height := rfl
@[simp] theorem State.reject_msgLen (s : State) (c : ErrCode) : (s.reject c).msgLen = s.msgLen := rfl
@[simp] theorem State.reject_outLen (s : State) (c : ErrCode) : (s.reject c).outLen = 0#32 := rfl
@[simp] theorem State.reject_opr (s : State) (c : ErrCode) : (s.reject c).opr = s.opr := rfl
@[simp] theorem State.reject_phase (s : State) (c : ErrCode) : (s.reject c).phase = s.phase := rfl
@[simp] theorem State.reject_cap (s : State) (c : ErrCode) : (s.reject c).cap = s.cap := rfl
@[simp] theorem State.reject_flen (s : State) (c : ErrCode) : (s.reject c).flen = s.flen := rfl
@[simp] theorem State.reject_llen (s : State) (c : ErrCode) : (s.reject c).llen = s.llen := rfl
@[simp] theorem State.reject_plen (s : State) (c : ErrCode) : (s.reject c).plen = s.plen := rfl
@[simp] theorem State.reject_idx (s : State) (c : ErrCode) : (s.reject c).idx = s.idx := rfl
@[simp] theorem State.reject_shreg (s : State) (c : ErrCode) : (s.reject c).shreg = s.shreg := rfl
@[simp] theorem State.reject_pix (s : State) (c : ErrCode) : (s.reject c).pix = s.pix := rfl
@[simp] theorem State.reject_msgIn (s : State) (c : ErrCode) : (s.reject c).msgIn = s.msgIn := rfl
@[simp] theorem State.reject_outPix (s : State) (c : ErrCode) : (s.reject c).outPix = s.outPix := rfl
@[simp] theorem State.reject_msgOut (s : State) (c : ErrCode) : (s.reject c).msgOut = s.msgOut := rfl
@[simp] theorem State.reject_cfg (s : State) (c : ErrCode) : (s.reject c).cfg = s.cfg := rfl
@[simp] theorem State.reject_turns (s : State) (c : ErrCode) : (s.reject c).turns = s.turns := rfl
@[simp] theorem State.reject_replies (s : State) (c : ErrCode) : (s.reject c).replies = s.replies := rfl
@[simp] theorem State.reject_abandoned (s : State) (c : ErrCode) : (s.reject c).abandoned = s.abandoned := rfl

/-! `State.acceptEncode` -/

@[simp] theorem State.acceptEncode_status (s : State) : (s.acceptEncode).status = .accepted := rfl
@[simp] theorem State.acceptEncode_width (s : State) : (s.acceptEncode).width = s.width := rfl
@[simp] theorem State.acceptEncode_height (s : State) : (s.acceptEncode).height = s.height := rfl
@[simp] theorem State.acceptEncode_msgLen (s : State) : (s.acceptEncode).msgLen = s.msgLen := rfl
@[simp] theorem State.acceptEncode_outLen (s : State) : (s.acceptEncode).outLen = 0#32 := rfl
@[simp] theorem State.acceptEncode_opr (s : State) : (s.acceptEncode).opr = .enc := rfl
@[simp] theorem State.acceptEncode_phase (s : State) : (s.acceptEncode).phase = .eCheck := rfl
@[simp] theorem State.acceptEncode_cap (s : State) : (s.acceptEncode).cap = BitVec.ofNat 32 s.requestedCap := rfl
@[simp] theorem State.acceptEncode_flen (s : State) : (s.acceptEncode).flen = BitVec.ofNat 36 (frameLength s.msgLen.toNat) := rfl
@[simp] theorem State.acceptEncode_llen (s : State) : (s.acceptEncode).llen = s.msgLen := rfl
@[simp] theorem State.acceptEncode_plen (s : State) : (s.acceptEncode).plen = 0#32 := rfl
@[simp] theorem State.acceptEncode_idx (s : State) : (s.acceptEncode).idx = 0#33 := rfl
@[simp] theorem State.acceptEncode_shreg (s : State) : (s.acceptEncode).shreg = 0#8 := rfl
@[simp] theorem State.acceptEncode_pix (s : State) : (s.acceptEncode).pix = s.pix := rfl
@[simp] theorem State.acceptEncode_msgIn (s : State) : (s.acceptEncode).msgIn = s.msgIn := rfl
@[simp] theorem State.acceptEncode_outPix (s : State) : (s.acceptEncode).outPix = s.outPix := rfl
@[simp] theorem State.acceptEncode_msgOut (s : State) : (s.acceptEncode).msgOut = s.msgOut := rfl
@[simp] theorem State.acceptEncode_cfg (s : State) : (s.acceptEncode).cfg = s.cfg := rfl
@[simp] theorem State.acceptEncode_turns (s : State) : (s.acceptEncode).turns = s.turns := rfl
@[simp] theorem State.acceptEncode_replies (s : State) : (s.acceptEncode).replies = s.replies := rfl
@[simp] theorem State.acceptEncode_abandoned (s : State) : (s.acceptEncode).abandoned = s.abandoned := rfl

/-! `State.acceptDecode` -/

@[simp] theorem State.acceptDecode_status (s : State) : (s.acceptDecode).status = .accepted := rfl
@[simp] theorem State.acceptDecode_width (s : State) : (s.acceptDecode).width = s.width := rfl
@[simp] theorem State.acceptDecode_height (s : State) : (s.acceptDecode).height = s.height := rfl
@[simp] theorem State.acceptDecode_msgLen (s : State) : (s.acceptDecode).msgLen = s.msgLen := rfl
@[simp] theorem State.acceptDecode_outLen (s : State) : (s.acceptDecode).outLen = 0#32 := rfl
@[simp] theorem State.acceptDecode_opr (s : State) : (s.acceptDecode).opr = .dec := rfl
@[simp] theorem State.acceptDecode_phase (s : State) : (s.acceptDecode).phase = .dCheck := rfl
@[simp] theorem State.acceptDecode_cap (s : State) : (s.acceptDecode).cap = BitVec.ofNat 32 s.requestedCap := rfl
@[simp] theorem State.acceptDecode_flen (s : State) : (s.acceptDecode).flen = s.flen := rfl
@[simp] theorem State.acceptDecode_llen (s : State) : (s.acceptDecode).llen = s.llen := rfl
@[simp] theorem State.acceptDecode_plen (s : State) : (s.acceptDecode).plen = 0#32 := rfl
@[simp] theorem State.acceptDecode_idx (s : State) : (s.acceptDecode).idx = 0#33 := rfl
@[simp] theorem State.acceptDecode_shreg (s : State) : (s.acceptDecode).shreg = 0#8 := rfl
@[simp] theorem State.acceptDecode_pix (s : State) : (s.acceptDecode).pix = s.pix := rfl
@[simp] theorem State.acceptDecode_msgIn (s : State) : (s.acceptDecode).msgIn = s.msgIn := rfl
@[simp] theorem State.acceptDecode_outPix (s : State) : (s.acceptDecode).outPix = s.outPix := rfl
@[simp] theorem State.acceptDecode_msgOut (s : State) : (s.acceptDecode).msgOut = s.msgOut := rfl
@[simp] theorem State.acceptDecode_cfg (s : State) : (s.acceptDecode).cfg = s.cfg := rfl
@[simp] theorem State.acceptDecode_turns (s : State) : (s.acceptDecode).turns = s.turns := rfl
@[simp] theorem State.acceptDecode_replies (s : State) : (s.acceptDecode).replies = s.replies := rfl
@[simp] theorem State.acceptDecode_abandoned (s : State) : (s.acceptDecode).abandoned = s.abandoned := rfl

/-! `State.reply` -/

@[simp] theorem State.reply_status (s : State) (r : Reply) : (s.reply r).status = s.status := rfl
@[simp] theorem State.reply_width (s : State) (r : Reply) : (s.reply r).width = s.width := rfl
@[simp] theorem State.reply_height (s : State) (r : Reply) : (s.reply r).height = s.height := rfl
@[simp] theorem State.reply_msgLen (s : State) (r : Reply) : (s.reply r).msgLen = s.msgLen := rfl
@[simp] theorem State.reply_outLen (s : State) (r : Reply) : (s.reply r).outLen = s.outLen := rfl
@[simp] theorem State.reply_opr (s : State) (r : Reply) : (s.reply r).opr = s.opr := rfl
@[simp] theorem State.reply_phase (s : State) (r : Reply) : (s.reply r).phase = s.phase := rfl
@[simp] theorem State.reply_cap (s : State) (r : Reply) : (s.reply r).cap = s.cap := rfl
@[simp] theorem State.reply_flen (s : State) (r : Reply) : (s.reply r).flen = s.flen := rfl
@[simp] theorem State.reply_llen (s : State) (r : Reply) : (s.reply r).llen = s.llen := rfl
@[simp] theorem State.reply_plen (s : State) (r : Reply) : (s.reply r).plen = s.plen := rfl
@[simp] theorem State.reply_idx (s : State) (r : Reply) : (s.reply r).idx = s.idx := rfl
@[simp] theorem State.reply_shreg (s : State) (r : Reply) : (s.reply r).shreg = s.shreg := rfl
@[simp] theorem State.reply_pix (s : State) (r : Reply) : (s.reply r).pix = s.pix := rfl
@[simp] theorem State.reply_msgIn (s : State) (r : Reply) : (s.reply r).msgIn = s.msgIn := rfl
@[simp] theorem State.reply_outPix (s : State) (r : Reply) : (s.reply r).outPix = s.outPix := rfl
@[simp] theorem State.reply_msgOut (s : State) (r : Reply) : (s.reply r).msgOut = s.msgOut := rfl
@[simp] theorem State.reply_cfg (s : State) (r : Reply) : (s.reply r).cfg = s.cfg := rfl
@[simp] theorem State.reply_turns (s : State) (r : Reply) : (s.reply r).turns = s.turns := rfl
@[simp] theorem State.reply_replies (s : State) (r : Reply) : (s.reply r).replies = r :: s.replies := rfl
@[simp] theorem State.reply_abandoned (s : State) (r : Reply) : (s.reply r).abandoned = s.abandoned := rfl

/-! `State.resetRegisters` -/

@[simp] theorem State.resetRegisters_status (s : State) : (s.resetRegisters).status = .clear := rfl
@[simp] theorem State.resetRegisters_width (s : State) : (s.resetRegisters).width = 0#32 := rfl
@[simp] theorem State.resetRegisters_height (s : State) : (s.resetRegisters).height = 0#32 := rfl
@[simp] theorem State.resetRegisters_msgLen (s : State) : (s.resetRegisters).msgLen = 0#32 := rfl
@[simp] theorem State.resetRegisters_outLen (s : State) : (s.resetRegisters).outLen = 0#32 := rfl
@[simp] theorem State.resetRegisters_opr (s : State) : (s.resetRegisters).opr = .none := rfl
@[simp] theorem State.resetRegisters_phase (s : State) : (s.resetRegisters).phase = .idle := rfl
@[simp] theorem State.resetRegisters_cap (s : State) : (s.resetRegisters).cap = 0#32 := rfl
@[simp] theorem State.resetRegisters_flen (s : State) : (s.resetRegisters).flen = 0#36 := rfl
@[simp] theorem State.resetRegisters_llen (s : State) : (s.resetRegisters).llen = 0#32 := rfl
@[simp] theorem State.resetRegisters_plen (s : State) : (s.resetRegisters).plen = 0#32 := rfl
@[simp] theorem State.resetRegisters_idx (s : State) : (s.resetRegisters).idx = 0#33 := rfl
@[simp] theorem State.resetRegisters_shreg (s : State) : (s.resetRegisters).shreg = 0#8 := rfl
@[simp] theorem State.resetRegisters_pix (s : State) : (s.resetRegisters).pix = s.pix := rfl
@[simp] theorem State.resetRegisters_msgIn (s : State) : (s.resetRegisters).msgIn = s.msgIn := rfl
@[simp] theorem State.resetRegisters_outPix (s : State) : (s.resetRegisters).outPix = s.outPix := rfl
@[simp] theorem State.resetRegisters_msgOut (s : State) : (s.resetRegisters).msgOut = s.msgOut := rfl
@[simp] theorem State.resetRegisters_cfg (s : State) : (s.resetRegisters).cfg = s.cfg := rfl
@[simp] theorem State.resetRegisters_turns (s : State) : (s.resetRegisters).turns = s.turns := rfl
@[simp] theorem State.resetRegisters_replies (s : State) : (s.resetRegisters).replies = s.replies := rfl
@[simp] theorem State.resetRegisters_abandoned (s : State) : (s.resetRegisters).abandoned = s.abandoned := rfl

/-! `State.setMem`: a memory write leaves every register and every other memory alone. -/

@[simp] theorem State.setMem_status (s : State) (m : MemId) (x : Memory) : (s.setMem m x).status = s.status := by
  cases m <;> rfl
@[simp] theorem State.setMem_width (s : State) (m : MemId) (x : Memory) : (s.setMem m x).width = s.width := by
  cases m <;> rfl
@[simp] theorem State.setMem_height (s : State) (m : MemId) (x : Memory) : (s.setMem m x).height = s.height := by
  cases m <;> rfl
@[simp] theorem State.setMem_msgLen (s : State) (m : MemId) (x : Memory) : (s.setMem m x).msgLen = s.msgLen := by
  cases m <;> rfl
@[simp] theorem State.setMem_outLen (s : State) (m : MemId) (x : Memory) : (s.setMem m x).outLen = s.outLen := by
  cases m <;> rfl
@[simp] theorem State.setMem_opr (s : State) (m : MemId) (x : Memory) : (s.setMem m x).opr = s.opr := by
  cases m <;> rfl
@[simp] theorem State.setMem_phase (s : State) (m : MemId) (x : Memory) : (s.setMem m x).phase = s.phase := by
  cases m <;> rfl
@[simp] theorem State.setMem_cap (s : State) (m : MemId) (x : Memory) : (s.setMem m x).cap = s.cap := by
  cases m <;> rfl
@[simp] theorem State.setMem_flen (s : State) (m : MemId) (x : Memory) : (s.setMem m x).flen = s.flen := by
  cases m <;> rfl
@[simp] theorem State.setMem_llen (s : State) (m : MemId) (x : Memory) : (s.setMem m x).llen = s.llen := by
  cases m <;> rfl
@[simp] theorem State.setMem_plen (s : State) (m : MemId) (x : Memory) : (s.setMem m x).plen = s.plen := by
  cases m <;> rfl
@[simp] theorem State.setMem_idx (s : State) (m : MemId) (x : Memory) : (s.setMem m x).idx = s.idx := by
  cases m <;> rfl
@[simp] theorem State.setMem_shreg (s : State) (m : MemId) (x : Memory) : (s.setMem m x).shreg = s.shreg := by
  cases m <;> rfl
@[simp] theorem State.setMem_cfg (s : State) (m : MemId) (x : Memory) : (s.setMem m x).cfg = s.cfg := by
  cases m <;> rfl
@[simp] theorem State.setMem_turns (s : State) (m : MemId) (x : Memory) : (s.setMem m x).turns = s.turns := by
  cases m <;> rfl
@[simp] theorem State.setMem_replies (s : State) (m : MemId) (x : Memory) : (s.setMem m x).replies = s.replies := by
  cases m <;> rfl
@[simp] theorem State.setMem_abandoned (s : State) (m : MemId) (x : Memory) : (s.setMem m x).abandoned = s.abandoned := by
  cases m <;> rfl

theorem State.setMem_mem (s : State) (m m' : MemId) (x : Memory) :
    (s.setMem m x).mem m' = if m' = m then x else s.mem m' := by
  cases m <;> cases m' <;> rfl

@[simp] theorem State.setMem_mem_same (s : State) (m : MemId) (x : Memory) : (s.setMem m x).mem m = x := by
  cases m <;> rfl

@[simp] theorem State.mem_pix (s : State) : s.mem .pix = s.pix := rfl
@[simp] theorem State.mem_msgIn (s : State) : s.mem .msgIn = s.msgIn := rfl
@[simp] theorem State.mem_outPix (s : State) : s.mem .outPix = s.outPix := rfl
@[simp] theorem State.mem_msgOut (s : State) : s.mem .msgOut = s.msgOut := rfl
@[simp] theorem State.setMem_pix_pix (s : State) (x : Memory) : (s.setMem .pix x).pix = x := rfl
@[simp] theorem State.setMem_pix_msgIn (s : State) (x : Memory) : (s.setMem .pix x).msgIn = s.msgIn := rfl
@[simp] theorem State.setMem_pix_outPix (s : State) (x : Memory) : (s.setMem .pix x).outPix = s.outPix := rfl
@[simp] theorem State.setMem_pix_msgOut (s : State) (x : Memory) : (s.setMem .pix x).msgOut = s.msgOut := rfl
@[simp] theorem State.setMem_msgIn_pix (s : State) (x : Memory) : (s.setMem .msgIn x).pix = s.pix := rfl
@[simp] theorem State.setMem_msgIn_msgIn (s : State) (x : Memory) : (s.setMem .msgIn x).msgIn = x := rfl
@[simp] theorem State.setMem_msgIn_outPix (s : State) (x : Memory) : (s.setMem .msgIn x).outPix = s.outPix := rfl
@[simp] theorem State.setMem_msgIn_msgOut (s : State) (x : Memory) : (s.setMem .msgIn x).msgOut = s.msgOut := rfl
@[simp] theorem State.setMem_outPix_pix (s : State) (x : Memory) : (s.setMem .outPix x).pix = s.pix := rfl
@[simp] theorem State.setMem_outPix_msgIn (s : State) (x : Memory) : (s.setMem .outPix x).msgIn = s.msgIn := rfl
@[simp] theorem State.setMem_outPix_outPix (s : State) (x : Memory) : (s.setMem .outPix x).outPix = x := rfl
@[simp] theorem State.setMem_outPix_msgOut (s : State) (x : Memory) : (s.setMem .outPix x).msgOut = s.msgOut := rfl
@[simp] theorem State.setMem_msgOut_pix (s : State) (x : Memory) : (s.setMem .msgOut x).pix = s.pix := rfl
@[simp] theorem State.setMem_msgOut_msgIn (s : State) (x : Memory) : (s.setMem .msgOut x).msgIn = s.msgIn := rfl
@[simp] theorem State.setMem_msgOut_outPix (s : State) (x : Memory) : (s.setMem .msgOut x).outPix = s.outPix := rfl
@[simp] theorem State.setMem_msgOut_msgOut (s : State) (x : Memory) : (s.setMem .msgOut x).msgOut = x := rfl

/-! `depthOf` -/

@[simp] theorem depthOf_pix (c : Config) : depthOf c .pix = c.pixDepth := rfl
@[simp] theorem depthOf_outPix (c : Config) : depthOf c .outPix = c.pixDepth := rfl
@[simp] theorem depthOf_msgIn (c : Config) : depthOf c .msgIn = c.msgDepth := rfl
@[simp] theorem depthOf_msgOut (c : Config) : depthOf c .msgOut = c.msgDepth := rfl

/-! `State.writeReg` -/

@[simp] theorem State.writeReg_status (s : State) (n : Nat) (v : Word) : (s.writeReg n v).status = s.status := by
  unfold State.writeReg; split <;> rfl
@[simp] theorem State.writeReg_outLen (s : State) (n : Nat) (v : Word) : (s.writeReg n v).outLen = s.outLen := by
  unfold State.writeReg; split <;> rfl
@[simp] theorem State.writeReg_opr (s : State) (n : Nat) (v : Word) : (s.writeReg n v).opr = s.opr := by
  unfold State.writeReg; split <;> rfl
@[simp] theorem State.writeReg_phase (s : State) (n : Nat) (v : Word) : (s.writeReg n v).phase = s.phase := by
  unfold State.writeReg; split <;> rfl
@[simp] theorem State.writeReg_cap (s : State) (n : Nat) (v : Word) : (s.writeReg n v).cap = s.cap := by
  unfold State.writeReg; split <;> rfl
@[simp] theorem State.writeReg_flen (s : State) (n : Nat) (v : Word) : (s.writeReg n v).flen = s.flen := by
  unfold State.writeReg; split <;> rfl
@[simp] theorem State.writeReg_llen (s : State) (n : Nat) (v : Word) : (s.writeReg n v).llen = s.llen := by
  unfold State.writeReg; split <;> rfl
@[simp] theorem State.writeReg_plen (s : State) (n : Nat) (v : Word) : (s.writeReg n v).plen = s.plen := by
  unfold State.writeReg; split <;> rfl
@[simp] theorem State.writeReg_idx (s : State) (n : Nat) (v : Word) : (s.writeReg n v).idx = s.idx := by
  unfold State.writeReg; split <;> rfl
@[simp] theorem State.writeReg_shreg (s : State) (n : Nat) (v : Word) : (s.writeReg n v).shreg = s.shreg := by
  unfold State.writeReg; split <;> rfl
@[simp] theorem State.writeReg_pix (s : State) (n : Nat) (v : Word) : (s.writeReg n v).pix = s.pix := by
  unfold State.writeReg; split <;> rfl
@[simp] theorem State.writeReg_msgIn (s : State) (n : Nat) (v : Word) : (s.writeReg n v).msgIn = s.msgIn := by
  unfold State.writeReg; split <;> rfl
@[simp] theorem State.writeReg_outPix (s : State) (n : Nat) (v : Word) : (s.writeReg n v).outPix = s.outPix := by
  unfold State.writeReg; split <;> rfl
@[simp] theorem State.writeReg_msgOut (s : State) (n : Nat) (v : Word) : (s.writeReg n v).msgOut = s.msgOut := by
  unfold State.writeReg; split <;> rfl
@[simp] theorem State.writeReg_cfg (s : State) (n : Nat) (v : Word) : (s.writeReg n v).cfg = s.cfg := by
  unfold State.writeReg; split <;> rfl
@[simp] theorem State.writeReg_turns (s : State) (n : Nat) (v : Word) : (s.writeReg n v).turns = s.turns := by
  unfold State.writeReg; split <;> rfl
@[simp] theorem State.writeReg_replies (s : State) (n : Nat) (v : Word) : (s.writeReg n v).replies = s.replies := by
  unfold State.writeReg; split <;> rfl
@[simp] theorem State.writeReg_abandoned (s : State) (n : Nat) (v : Word) : (s.writeReg n v).abandoned = s.abandoned := by
  unfold State.writeReg; split <;> rfl

/-! `State.abandon`: only the abandoned operation's output memory and the counter change (R232). -/

@[simp] theorem State.abandon_status (s : State) : s.abandon.status = s.status := by
  unfold State.abandon; split <;> (try split) <;> rfl
@[simp] theorem State.abandon_width (s : State) : s.abandon.width = s.width := by
  unfold State.abandon; split <;> (try split) <;> rfl
@[simp] theorem State.abandon_height (s : State) : s.abandon.height = s.height := by
  unfold State.abandon; split <;> (try split) <;> rfl
@[simp] theorem State.abandon_msgLen (s : State) : s.abandon.msgLen = s.msgLen := by
  unfold State.abandon; split <;> (try split) <;> rfl
@[simp] theorem State.abandon_outLen (s : State) : s.abandon.outLen = s.outLen := by
  unfold State.abandon; split <;> (try split) <;> rfl
@[simp] theorem State.abandon_opr (s : State) : s.abandon.opr = s.opr := by
  unfold State.abandon; split <;> (try split) <;> rfl
@[simp] theorem State.abandon_phase (s : State) : s.abandon.phase = s.phase := by
  unfold State.abandon; split <;> (try split) <;> rfl
@[simp] theorem State.abandon_cap (s : State) : s.abandon.cap = s.cap := by
  unfold State.abandon; split <;> (try split) <;> rfl
@[simp] theorem State.abandon_flen (s : State) : s.abandon.flen = s.flen := by
  unfold State.abandon; split <;> (try split) <;> rfl
@[simp] theorem State.abandon_llen (s : State) : s.abandon.llen = s.llen := by
  unfold State.abandon; split <;> (try split) <;> rfl
@[simp] theorem State.abandon_plen (s : State) : s.abandon.plen = s.plen := by
  unfold State.abandon; split <;> (try split) <;> rfl
@[simp] theorem State.abandon_idx (s : State) : s.abandon.idx = s.idx := by
  unfold State.abandon; split <;> (try split) <;> rfl
@[simp] theorem State.abandon_shreg (s : State) : s.abandon.shreg = s.shreg := by
  unfold State.abandon; split <;> (try split) <;> rfl
@[simp] theorem State.abandon_pix (s : State) : s.abandon.pix = s.pix := by
  unfold State.abandon; split <;> (try split) <;> rfl
@[simp] theorem State.abandon_msgIn (s : State) : s.abandon.msgIn = s.msgIn := by
  unfold State.abandon; split <;> (try split) <;> rfl
@[simp] theorem State.abandon_cfg (s : State) : s.abandon.cfg = s.cfg := by
  unfold State.abandon; split <;> (try split) <;> rfl
@[simp] theorem State.abandon_turns (s : State) : s.abandon.turns = s.turns := by
  unfold State.abandon; split <;> (try split) <;> rfl
@[simp] theorem State.abandon_replies (s : State) : s.abandon.replies = s.replies := by
  unfold State.abandon; split <;> (try split) <;> rfl

end Sys2Proof.Machine
end

