-- ==== Sys2Proof/Laws/Commands.lean ====
section
/-! SUPPORT. The commands: everything a command can answer, said once. -/

namespace Sys2Proof.Machine

/-- A command never stops the machine: it is ignored, changes nothing, is rejected or is accepted (R181 to R187). -/
theorem exec_cases (i : Instr) (s : State) :
    (exec i s = .next s ∧ (i = .nop ∨ s.status.busy = true)) ∨
    (exec i s = .next (s.reject .illegalCmd) ∧ i = .reserved3 ∧ s.status.busy = false) ∨
    (exec i s = .next (s.reject .badConfig) ∧ (i = .encode ∨ i = .decode) ∧ s.status.busy = false ∧
      s.cfg.pixDepth < s.requestedCap) ∨
    (exec i s = .next s.acceptEncode ∧ i = .encode ∧ s.status.busy = false ∧ s.requestedCap ≤ s.cfg.pixDepth) ∨
    (exec i s = .next s.acceptDecode ∧ i = .decode ∧ s.status.busy = false ∧ s.requestedCap ≤ s.cfg.pixDepth) := by
  rcases hb : s.status.busy with _ | _
  · rcases Nat.lt_or_ge s.cfg.pixDepth s.requestedCap with hc | hc
    · cases i <;> simp [exec, execNop, execEncode, execDecode, execReserved3, whenNotBusy, withLegalConfig, hb, hc]
    · have hc' := Nat.not_lt.2 hc
      cases i <;>
        simp [exec, execNop, execEncode, execDecode, execReserved3, whenNotBusy, withLegalConfig, hb, hc, hc']
  · cases i <;> simp [exec, execNop, execEncode, execDecode, execReserved3, whenNotBusy, hb]

/-- The decoder goes by the two low bits of the word (R104). -/
theorem decodeWord_cases (word : Word) :
    (decodeWord word = .nop ∧ word.toNat % 4 = 0) ∨ (decodeWord word = .encode ∧ word.toNat % 4 = 1) ∨
    (decodeWord word = .decode ∧ word.toNat % 4 = 2) ∨ (decodeWord word = .reserved3 ∧ word.toNat % 4 = 3) := by
  have h1 : word.getLsbD 1 = decide (word.toNat / 2 % 2 = 1) := by
    rw [← BitVec.testBit_toNat, Nat.testBit_eq_decide_div_mod_eq]
  have h0 : word.getLsbD 0 = decide (word.toNat % 2 = 1) := by
    rw [← BitVec.testBit_toNat, Nat.testBit_eq_decide_div_mod_eq]
    simp
  unfold decodeWord
  rw [h1, h0]
  rcases Nat.mod_two_eq_zero_or_one word.toNat with h | h <;>
    rcases Nat.mod_two_eq_zero_or_one (word.toNat / 2) with h' | h' <;> simp [h, h'] <;> omega

end Sys2Proof.Machine
end

