-- ==== Sys2Proof/Laws/Memory.lean ====
section
/-! SUPPORT. One memory: read after write, and every operation keeps the canonical form and the depth. -/

namespace Sys2Proof.Machine

@[simp] theorem Memory.read_nil (a : Nat) : Memory.read [] a = Config.powerUpByte := rfl

theorem Memory.read_cons (b a : Nat) (v : Byte) (rest : Memory) :
    Memory.read ((b, v) :: rest) a =
      if a < b then Config.powerUpByte else if a = b then v else Memory.read rest a := rfl

theorem Memory.wfFrom_cons (lo a : Nat) (v : Byte) (rest : Memory) :
    Memory.wfFrom lo ((a, v) :: rest) = true ↔
      lo ≤ a ∧ v ≠ Config.powerUpByte ∧ Memory.wfFrom (a + 1) rest = true := by
  simp [Memory.wfFrom, and_assoc]

/-- An index below every listed one reads as power-up left it. -/
theorem Memory.read_below {lo a : Nat} {m : Memory} (h : Memory.wfFrom lo m = true) (ha : a < lo) :
    Memory.read m a = Config.powerUpByte := by
  cases m with
  | nil => rfl
  | cons c rest =>
    obtain ⟨b, v⟩ := c
    have hb := ((Memory.wfFrom_cons lo b v rest).1 h).1
    rw [Memory.read_cons, if_pos (by omega)]

theorem Memory.wfFrom_mono {lo lo' : Nat} {m : Memory} (h : Memory.wfFrom lo m = true) (hl : lo' ≤ lo) :
    Memory.wfFrom lo' m = true := by
  cases m with
  | nil => rfl
  | cons c rest =>
    obtain ⟨b, v⟩ := c
    obtain ⟨h1, h2⟩ := (Memory.wfFrom_cons lo b v rest).1 h
    exact (Memory.wfFrom_cons lo' b v rest).2 ⟨by omega, h2⟩

theorem Memory.read_write_from {lo : Nat} {m : Memory} (h : Memory.wfFrom lo m = true) (a b : Nat) (v : Byte) :
    Memory.read (Memory.write m a v) b = if b = a then v else Memory.read m b := by
  induction m generalizing lo with
  | nil =>
    unfold Memory.write
    split
    · simp_all
    · rw [Memory.read_cons]
      by_cases hba : b = a
      · simp [hba]
      · by_cases hlt : b < a <;> simp [hba, hlt]
  | cons c rest ih =>
    obtain ⟨x, w⟩ := c
    obtain ⟨h1, h2, h3⟩ := (Memory.wfFrom_cons lo x w rest).1 h
    unfold Memory.write
    split
    · split
      · by_cases hba : b = a
        · subst hba
          simp_all [Memory.read_cons]
        · simp [hba]
      · rw [Memory.read_cons]
        by_cases hba : b = a
        · simp [hba]
        · by_cases hlt : b < a
          · rw [if_pos hlt, if_neg hba, Memory.read_cons, if_pos (by omega)]
          · rw [if_neg hlt, if_neg hba]
    · split
      · rename_i _ hax
        subst hax
        split
        · rename_i hv
          subst hv
          rcases Nat.lt_trichotomy b a with hlt | heq | hgt
          · rw [if_neg (by omega), Memory.read_cons, if_pos hlt, Memory.read_below h3 (by omega)]
          · rw [if_pos heq, Memory.read_below h3 (by omega)]
          · rw [if_neg (by omega), Memory.read_cons, if_neg (by omega), if_neg (by omega)]
        · rw [Memory.read_cons, Memory.read_cons]
          rcases Nat.lt_trichotomy b a with hlt | heq | hgt
          · rw [if_pos hlt, if_neg (by omega), if_pos hlt]
          · simp [heq]
          · rw [if_neg (by omega), if_neg (by omega), if_neg (by omega), if_neg (by omega), if_neg (by omega)]
      · rw [Memory.read_cons, Memory.read_cons, ih h3]
        rcases Nat.lt_trichotomy b x with hlt | heq | hgt
        · rw [if_pos hlt, if_neg (by omega), if_pos hlt]
        · rw [if_neg (by omega), if_pos heq, if_neg (by omega), if_neg (by omega), if_pos heq]
        · rw [if_neg (by omega), if_neg (by omega)]
          by_cases hba : b = a
          · simp [hba]
          · rw [if_neg hba, if_neg hba, if_neg (by omega), if_neg (by omega)]

/-- Read after write, at the same index and at every other one. -/
theorem Memory.read_write {m : Memory} (h : Memory.wf m = true) (a b : Nat) (v : Byte) :
    Memory.read (Memory.write m a v) b = if b = a then v else Memory.read m b :=
  Memory.read_write_from h a b v

theorem Memory.wfFrom_write {lo : Nat} {m : Memory} (h : Memory.wfFrom lo m = true) {a : Nat} (ha : lo ≤ a)
    (v : Byte) : Memory.wfFrom lo (Memory.write m a v) = true := by
  induction m generalizing lo with
  | nil =>
    unfold Memory.write
    split
    · rfl
    · exact (Memory.wfFrom_cons _ _ _ _).2 ⟨ha, ‹_›, rfl⟩
  | cons c rest ih =>
    obtain ⟨x, w⟩ := c
    obtain ⟨h1, h2, h3⟩ := (Memory.wfFrom_cons lo x w rest).1 h
    unfold Memory.write
    split
    · split
      · exact h
      · exact (Memory.wfFrom_cons _ _ _ _).2
          ⟨ha, ‹_›, (Memory.wfFrom_cons _ _ _ _).2 ⟨by omega, h2, h3⟩⟩
    · split
      · split
        · exact Memory.wfFrom_mono h3 (by omega)
        · exact (Memory.wfFrom_cons _ _ _ _).2 ⟨ha, ‹_›, by simp_all⟩
      · exact (Memory.wfFrom_cons _ _ _ _).2 ⟨h1, h2, ih h3 (by omega)⟩

/-- A write keeps the canonical form. -/
theorem Memory.wf_write {m : Memory} (h : Memory.wf m = true) (a : Nat) (v : Byte) :
    Memory.wf (Memory.write m a v) = true := Memory.wfFrom_write h (Nat.zero_le a) v

theorem Memory.below_nil (d : Nat) : Memory.below d [] = true := rfl

theorem Memory.below_cons (d a : Nat) (v : Byte) (rest : Memory) :
    Memory.below d ((a, v) :: rest) = true ↔ a < d ∧ Memory.below d rest = true := by
  simp [Memory.below]

/-- A write below the depth lists no index that does not exist. -/
theorem Memory.below_write {d : Nat} {m : Memory} (h : Memory.below d m = true) {a : Nat} (ha : a < d) (v : Byte) :
    Memory.below d (Memory.write m a v) = true := by
  induction m with
  | nil =>
    unfold Memory.write
    split
    · rfl
    · exact (Memory.below_cons _ _ _ _).2 ⟨ha, rfl⟩
  | cons c rest ih =>
    obtain ⟨x, w⟩ := c
    obtain ⟨h1, h2⟩ := (Memory.below_cons d x w rest).1 h
    unfold Memory.write
    split
    · split
      · exact h
      · exact (Memory.below_cons _ _ _ _).2 ⟨ha, h⟩
    · split
      · split
        · exact h2
        · exact (Memory.below_cons _ _ _ _).2 ⟨ha, h2⟩
      · exact (Memory.below_cons _ _ _ _).2 ⟨h1, ih h2⟩

theorem Memory.wf_fill {m : Memory} (h : Memory.wf m = true) (f : Nat → Byte) (n : Nat) :
    Memory.wf (Memory.fill f n m) = true := by
  induction n with
  | zero => exact h
  | succ n ih => exact Memory.wf_write ih n (f n)

theorem Memory.below_fill {d : Nat} {m : Memory} (h : Memory.below d m = true) (f : Nat → Byte) {n : Nat}
    (hn : n ≤ d) : Memory.below d (Memory.fill f n m) = true := by
  induction n with
  | zero => exact h
  | succ n ih => exact Memory.below_write (ih (by omega)) (by omega) (f n)

theorem Memory.read_fill {m : Memory} (h : Memory.wf m = true) (f : Nat → Byte) (n a : Nat) :
    Memory.read (Memory.fill f n m) a = if a < n then f a else Memory.read m a := by
  induction n with
  | zero => simp [Memory.fill]
  | succ n ih =>
    rw [Memory.fill, Memory.read_write (Memory.wf_fill h f n), ih]
    rcases Nat.lt_trichotomy a n with hlt | heq | hgt
    · rw [if_neg (by omega), if_pos hlt, if_pos (by omega)]
    · simp [heq]
    · rw [if_neg (by omega), if_neg (by omega), if_neg (by omega)]

/-- Equal reads make equal lists. -/
theorem Memory.ext_from {lo : Nat} {m m' : Memory} (h : Memory.wfFrom lo m = true) (h' : Memory.wfFrom lo m' = true)
    (hr : ∀ a, Memory.read m a = Memory.read m' a) : m = m' := by
  induction m generalizing lo m' with
  | nil =>
    cases m' with
    | nil => rfl
    | cons c rest =>
      obtain ⟨x, w⟩ := c
      have := hr x
      rw [Memory.read_nil, Memory.read_cons, if_neg (by omega), if_pos rfl] at this
      exact absurd this.symm ((Memory.wfFrom_cons _ _ _ _).1 h').2.1
  | cons c rest ih =>
    obtain ⟨x, w⟩ := c
    obtain ⟨h1, h2, h3⟩ := (Memory.wfFrom_cons lo x w rest).1 h
    have hx := hr x
    rw [Memory.read_cons, if_neg (by omega), if_pos rfl] at hx
    cases m' with
    | nil => exact absurd hx h2
    | cons c' rest' =>
      obtain ⟨y, u⟩ := c'
      obtain ⟨k1, k2, k3⟩ := (Memory.wfFrom_cons lo y u rest').1 h'
      have hy := hr y
      rw [Memory.read_cons, Memory.read_cons, if_neg (Nat.lt_irrefl y), if_pos rfl] at hy
      rcases Nat.lt_trichotomy x y with hlt | heq | hgt
      · rw [Memory.read_cons, if_pos hlt] at hx
        exact absurd hx h2
      · subst heq
        rw [Memory.read_cons, if_neg (by omega), if_pos rfl] at hx
        subst hx
        congr 1
        refine ih h3 k3 fun a => ?_
        rcases Nat.lt_or_ge x a with hlt | hge
        · have := hr a
          rwa [Memory.read_cons, Memory.read_cons, if_neg (by omega), if_neg (by omega), if_neg (by omega),
            if_neg (by omega)] at this
        · rw [Memory.read_below h3 (by omega), Memory.read_below k3 (by omega)]
      · rw [if_pos hgt] at hy
        exact absurd hy.symm k2

/-- Two memories in canonical form that read alike are the same list. -/
theorem Memory.ext {m m' : Memory} (h : Memory.wf m = true) (h' : Memory.wf m' = true)
    (hr : ∀ a, Memory.read m a = Memory.read m' a) : m = m' := Memory.ext_from h h' hr

end Sys2Proof.Machine
end

