-- ==== Sys2Proof/Laws/Ops.lean ====
section
/-! SUPPORT. The shared operations: each says once everything it can do. -/

namespace Sys2Proof.Machine

theorem readByte_of_lt {m : MemId} {a : Nat} {s : State} (h : a < depthOf s.cfg m) (k : Byte → Out) :
    readByte m a s k = k (Memory.read (s.mem m) a) := if_pos h

theorem writeByte_of_lt {m : MemId} {a : Nat} {s : State} (h : a < depthOf s.cfg m) (v : Byte) (k : State → Out) :
    writeByte m a v s k = k (s.setMem m (Memory.write (s.mem m) a v)) := if_pos h

theorem readByte_fault {m : MemId} {a : Nat} {s : State} (h : depthOf s.cfg m ≤ a) (k : Byte → Out) :
    readByte m a s k = .fault (.noSuchLocation m a) := if_neg (by omega)

theorem writeByte_fault {m : MemId} {a : Nat} {s : State} (h : depthOf s.cfg m ≤ a) (v : Byte) (k : State → Out) :
    writeByte m a v s k = .fault (.noSuchLocation m a) := if_neg (by omega)

/-- A read that is followed by a next state was inside the memory. -/
theorem readByte_next {m : MemId} {a : Nat} {s t : State} {k : Byte → Out} (h : readByte m a s k = .next t) :
    a < depthOf s.cfg m ∧ k (Memory.read (s.mem m) a) = .next t := by
  unfold readByte at h
  split at h
  · exact ⟨‹_›, h⟩
  · cases h

/-- A write that is followed by a next state was inside the memory. -/
theorem writeByte_next {m : MemId} {a : Nat} {v : Byte} {s t : State} {k : State → Out}
    (h : writeByte m a v s k = .next t) :
    a < depthOf s.cfg m ∧ k (s.setMem m (Memory.write (s.mem m) a v)) = .next t := by
  unfold writeByte at h
  split at h
  · exact ⟨‹_›, h⟩
  · cases h

/-- A host memory access that is followed by a next state was made while BUSY = 0. -/
theorem hostMemory_next {m : MemId} {a : Nat} {s t : State} {k : State → Out} (h : hostMemory m a s k = .next t) :
    s.status.busy = false ∧ k s = .next t := by
  unfold hostMemory at h
  split at h
  · cases h
  · rename_i hb
    exact ⟨by simpa using hb, h⟩

/-- The bit the engine embeds is the frame bit of R94, where its character exists. -/
theorem embedBit_eq {s : State} (h : 32 ≤ s.idx.toNat → charIndex (s.idx.toNat - 32) < s.cfg.msgDepth)
    (k : Bool → Out) :
    embedBit s k = k (frameBit s.llen.toNat (Memory.read s.msgIn) s.idx.toNat) := by
  unfold embedBit frameBit
  split
  · rfl
  · rw [readByte_of_lt (by simpa using h (by omega))]
    rfl

theorem storeChar_store {c : Byte} {s : State} (h7 : (s.idx.toNat - 32) % 8 = 7)
    (hd : charIndex (s.idx.toNat - 32) < s.cfg.msgDepth) (k : State → Out) :
    storeChar c s k = k { s with msgOut := Memory.write s.msgOut (charIndex (s.idx.toNat - 32)) c } := by
  unfold storeChar
  rw [if_pos h7, writeByte_of_lt (by simpa using hd)]
  rfl

theorem storeChar_skip {c : Byte} {s : State} (h7 : (s.idx.toNat - 32) % 8 ≠ 7) (k : State → Out) :
    storeChar c s k = k s := if_neg h7

end Sys2Proof.Machine
end

