-- ==== Sys2Proof/Laws/Engine.lean ====
section
/-! SUPPORT. The engine in a state that meets the invariant: one equation per phase and case, and the bounds it needs
(R70). -/

namespace Sys2Proof.Machine

theorem BlockInv.busy_of_phase {s : State} (hi : BlockInv s) {p : Phase} (hp : s.phase = p) (hne : p ≠ .idle) :
    s.status.busy = true := hi.busyPhase.2 (by rw [hp]; exact hne)

theorem BlockInv.cap_le {s : State} (hi : BlockInv s) {p : Phase} (hp : s.phase = p) (hne : p ≠ .idle) :
    s.cap.toNat ≤ s.cfg.pixDepth := hi.busyCap (hi.busy_of_phase hp hne)

theorem Config.legal_iff (c : Config) :
    c.legal = true ↔ c.pixDepth ≤ 2 ^ 32 - 1 ∧ (32 ≤ c.pixDepth → (c.pixDepth - 32) / 8 ≤ c.msgDepth) := by
  unfold Config.legal
  rw [Bool.and_eq_true, decide_eq_true_iff, decide_eq_true_iff]

/-- A character of a frame that fits the image fits the message memories (R70, R160). -/
theorem BlockInv.char_lt {s : State} (hi : BlockInv s) {i n : Nat} (h32 : 32 ≤ i) (hin : i < 32 + 8 * n)
    (hn : 32 + 8 * n ≤ s.cfg.pixDepth) : charIndex (i - 32) < s.cfg.msgDepth := by
  have := ((Config.legal_iff _).1 hi.cfgLegal).2 (by omega)
  unfold charIndex
  omega

theorem engineStep_idle {s : State} (hp : s.phase = .idle) : engineStep s = .next s := by
  simp [engineStep, hp]

theorem engineStep_eCheck {s : State} (hp : s.phase = .eCheck) :
    engineStep s = if s.cap.toNat < s.flen.toNat then .next (s.raise .capacityError .none)
      else .next (s.goto .eEmbed) := by
  simp [engineStep, hp, stepECheck]

theorem engineStep_eEmbed_write {s : State} (hi : BlockInv s) (hp : s.phase = .eEmbed) (h : s.idx.toNat < s.flen.toNat) :
    engineStep s = .next { s with
      outPix := Memory.write s.outPix s.idx.toNat
        (setlsb (Memory.read s.pix s.idx.toNat) (frameBit s.llen.toNat (Memory.read s.msgIn) s.idx.toNat))
      idx := s.idx + 1#33 } := by
  have hb := hi.embedBounds hp
  have hc := hi.cap_le hp (by decide)
  have hf : s.flen.toNat = 32 + 8 * s.llen.toNat := hi.encodeFlen (by rw [hp]; rfl)
  rw [show engineStep s = stepEEmbed s by simp [engineStep, hp], stepEEmbed, if_pos h, embedBit_eq fun h32 => hi.char_lt (n := s.llen.toNat) h32 (by omega) (by omega),
    readByte_of_lt (by simp; omega), writeByte_of_lt (by simp; omega)]
  rfl

theorem engineStep_eEmbed_end {s : State} (hp : s.phase = .eEmbed) (h : s.flen.toNat ≤ s.idx.toNat) :
    engineStep s = .next (s.goto .eCopy) := by
  rw [show engineStep s = stepEEmbed s by simp [engineStep, hp], stepEEmbed, if_neg (by omega)]

theorem engineStep_eCopy_write {s : State} (hi : BlockInv s) (hp : s.phase = .eCopy) (h : s.idx.toNat < s.cap.toNat) :
    engineStep s = .next { s with
      outPix := Memory.write s.outPix s.idx.toNat (Memory.read s.pix s.idx.toNat)
      idx := s.idx + 1#33 } := by
  have hc := hi.cap_le hp (by decide)
  rw [show engineStep s = stepECopy s by simp [engineStep, hp], stepECopy, if_pos h, readByte_of_lt (by simp; omega), writeByte_of_lt (by simp; omega)]
  rfl

theorem engineStep_eCopy_end {s : State} (hp : s.phase = .eCopy) (h : s.cap.toNat ≤ s.idx.toNat) :
    engineStep s = .next s.finishOk := by
  rw [show engineStep s = stepECopy s by simp [engineStep, hp], stepECopy, if_neg (by omega)]

theorem engineStep_dCheck {s : State} (hp : s.phase = .dCheck) :
    engineStep s = if s.cap.toNat < 32 then .next (s.raise .decodeError .bufferTooShort)
      else .next (s.goto .dHdr) := by
  simp [engineStep, hp, stepDCheck]

theorem engineStep_dHdr_read {s : State} (hi : BlockInv s) (hp : s.phase = .dHdr) (h : s.idx.toNat < 32) :
    engineStep s = .next { s with
      plen := BitVec.ofNat 32 (shiftIn s.plen.toNat (lsb (Memory.read s.pix s.idx.toNat)))
      idx := s.idx + 1#33 } := by
  have hc := hi.cap_le hp (by decide)
  have hh := hi.hdrBounds hp
  rw [show engineStep s = stepDHdr s by simp [engineStep, hp], stepDHdr, if_pos h, readByte_of_lt (by simp; omega)]
  rfl

theorem engineStep_dHdr_end {s : State} (hp : s.phase = .dHdr) (h : 32 ≤ s.idx.toNat) :
    engineStep s = .next (s.goto .dLenchk) := by
  rw [show engineStep s = stepDHdr s by simp [engineStep, hp], stepDHdr, if_neg (by omega)]

theorem engineStep_dLenchk {s : State} (hp : s.phase = .dLenchk) :
    engineStep s = if s.cap.toNat < 32 + s.plen.toNat then .next (s.raise .decodeError .lengthTooLong)
      else if s.plen.toNat % 8 ≠ 0 then .next (s.raise .decodeError .lengthNotBytes)
      else .next (s.goto .dPayload) := by
  rw [show engineStep s = stepDLenchk s by simp [engineStep, hp], stepDLenchk]

/-- The memory MSG_OUT after one payload step (R156). -/
def payloadMsgOut (s : State) : Memory :=
  if (s.idx.toNat - 32) % 8 = 7 then
    Memory.write s.msgOut (charIndex (s.idx.toNat - 32))
      (BitVec.ofNat 8 (shiftIn s.shreg.toNat (lsb (Memory.read s.pix s.idx.toNat))))
  else s.msgOut

theorem engineStep_dPayload_read {s : State} (hi : BlockInv s) (hp : s.phase = .dPayload)
    (h : s.idx.toNat < 32 + s.plen.toNat) :
    engineStep s = .next { s with
      msgOut := payloadMsgOut s
      shreg := BitVec.ofNat 8 (shiftIn s.shreg.toNat (lsb (Memory.read s.pix s.idx.toNat)))
      idx := s.idx + 1#33 } := by
  have hc := hi.cap_le hp (by decide)
  have hh := hi.payloadBounds hp
  have hlt : charIndex (s.idx.toNat - 32) < s.cfg.msgDepth :=
    hi.char_lt (n := s.plen.toNat / 8) (by omega) (by omega) (by omega)
  rw [show engineStep s = stepDPayload s by simp [engineStep, hp], stepDPayload, if_pos h, readByte_of_lt (by simp; omega)]
  by_cases h7 : (s.idx.toNat - 32) % 8 = 7
  · rw [storeChar_store h7 hlt]
    simp [payloadMsgOut, h7, State.advance]
  · rw [storeChar_skip h7]
    simp [payloadMsgOut, h7, State.advance]

theorem engineStep_dPayload_end {s : State} (hp : s.phase = .dPayload) (h : 32 + s.plen.toNat ≤ s.idx.toNat) :
    engineStep s = .next { s with outLen := BitVec.ofNat 32 (s.plen.toNat / 8) }.finishOk := by
  rw [show engineStep s = stepDPayload s by simp [engineStep, hp], stepDPayload, if_neg (by omega)]

end Sys2Proof.Machine
end

