-- ==== Sys2Proof/Laws/PerInstr.lean ====
section
/-! SUPPORT. The family Masked: what the opcode table says of each command's words (R104, R105). -/

namespace Sys2Proof.Laws

/-- The low two bits of a command word, as a number. -/
theorem encodeWith_mod (ignored : BitVec 30) (i : Sys2Proof.Instr) :
    (Sys2Proof.encodeWith ignored i).toNat % 4 = (Sys2Proof.opcode i).toNat := by
  rw [Sys2Proof.encodeWith, BitVec.toNat_append, ← Nat.shiftLeft_add_eq_or_of_lt (Sys2Proof.opcode i).isLt]
  have := (Sys2Proof.opcode i).isLt
  rw [Nat.shiftLeft_eq]
  omega

/-- The mask of the table keeps the low two bits. -/
theorem and_three (word : Sys2Proof.Word) : word &&& 3#32 = BitVec.ofNat 32 (word.toNat % 4) := by
  apply BitVec.eq_of_toNat_eq
  have := Nat.and_two_pow_sub_one_eq_mod word.toNat 2
  simp at this ⊢
  omega

/-- The command is well formed, and every word of it, whatever stands in the ignored bits, is covered by the row of the
table that names it, whose pattern is the word a host should write. -/
def Masked.Statement (i : Sys2Proof.Instr) : Prop :=
  i.wf = true ∧ ∃ r ∈ Sys2Proof.opcodeTable, r.instr = i ∧ r.pattern = Sys2Proof.encode i ∧
    ∀ ignored : BitVec 30, r.covers (Sys2Proof.encodeWith ignored i) = true

theorem Masked.nop : Masked.Statement .nop :=
  ⟨rfl, { mask := 3#32, pattern := 0#32, instr := .nop }, by decide, rfl, rfl, fun ignored => by
    rw [OpcodeRow.covers, and_three, encodeWith_mod]; rfl⟩

theorem Masked.encode : Masked.Statement .encode :=
  ⟨rfl, { mask := 3#32, pattern := 1#32, instr := .encode }, by decide, rfl, rfl, fun ignored => by
    rw [OpcodeRow.covers, and_three, encodeWith_mod]; rfl⟩

theorem Masked.decode : Masked.Statement .decode :=
  ⟨rfl, { mask := 3#32, pattern := 2#32, instr := .decode }, by decide, rfl, rfl, fun ignored => by
    rw [OpcodeRow.covers, and_three, encodeWith_mod]; rfl⟩

theorem Masked.reserved3 : Masked.Statement .reserved3 :=
  ⟨rfl, { mask := 3#32, pattern := 3#32, instr := .reserved3 }, by decide, rfl, rfl, fun ignored => by
    rw [OpcodeRow.covers, and_three, encodeWith_mod]; rfl⟩

end Sys2Proof.Laws
end

