-- ==== Sys2Proof/Laws/Run.lean ====
section
/-! SUPPORT. Runs of the machine: composition, and runs in which only the engine moves. -/

namespace Sys2Proof.Machine

@[simp] theorem runs_zero (s : State) : runs 0 s = .next s := rfl

theorem runs_succ {s t : State} (h : step s = .next t) (n : Nat) : runs (n + 1) s = runs n t := by
  rw [runs, h]

/-- `runs` is the host's run of the machine. -/
theorem runs_eq_core_run (n : Nat) (s : State) : runs n s = Host.Core.run Sys2Proof.core n s := by
  induction n generalizing s with
  | zero => rfl
  | succ n ih =>
    refine Eq.trans ?_ (Host.Core.run.eq_2 Sys2Proof.core s n).symm
    rw [runs]
    cases h : step s with
    | next t => rw [show Sys2Proof.core.step s = .next t from h]; exact ih t
    | fault r => rw [show Sys2Proof.core.step s = .fault r from h]; rfl
    | refused r => rw [show Sys2Proof.core.step s = .refused r from h]; rfl

theorem runs_add {a : Nat} {s t : State} (h : runs a s = .next t) (b : Nat) : runs (a + b) s = runs b t := by
  induction a generalizing s with
  | zero =>
    cases h
    rw [Nat.zero_add]
  | succ a ih =>
    rw [Nat.add_right_comm, runs]
    rw [runs] at h
    generalize step s = o at *
    cases o with
    | next s' => exact ih h
    | fault r => cases h
    | refused r => cases h

/-- With no turn left a step is the engine's. -/
theorem step_alone {s : State} (h : s.turns = []) : step s = engineStep s := by
  rw [step, move, h]

/-- One engine step at the end of a run. -/
theorem runs_engine {k : Nat} {s v w : State} (h : runs k s = .next v) (ht : v.turns = [])
    (hw : engineStep v = .next w) : runs (k + 1) s = .next w := by
  rw [runs_add h 1, runs_succ (by rw [step_alone ht, hw])]
  rfl

/-- An idle block that is alone stays as it is (R194). -/
theorem runs_idle {s : State} (hp : s.phase = .idle) (ht : s.turns = []) (n : Nat) : runs n s = .next s := by
  induction n with
  | zero => rfl
  | succ n ih => exact runs_engine ih ht (engineStep_idle hp)

/-- What no engine step changes, in any state (R72, R133, R164). -/
theorem engineStep_unchanged {s t : State} (h : engineStep s = .next t) :
    t.pix = s.pix ∧ t.msgIn = s.msgIn ∧ t.width = s.width ∧ t.height = s.height ∧ t.msgLen = s.msgLen ∧
    t.cap = s.cap ∧ t.flen = s.flen ∧ t.llen = s.llen ∧ t.cfg = s.cfg ∧ t.turns = s.turns ∧
    t.replies = s.replies ∧ t.abandoned = s.abandoned := by
  unfold engineStep at h
  split at h
  · cases h; simp
  · unfold stepECheck at h; split at h <;> cases h <;> simp
  · unfold stepEEmbed embedBit at h
    split at h
    · split at h
      · obtain ⟨_, h⟩ := readByte_next h
        obtain ⟨_, h⟩ := writeByte_next h
        cases h; simp
      · obtain ⟨_, h⟩ := readByte_next h
        obtain ⟨_, h⟩ := readByte_next h
        obtain ⟨_, h⟩ := writeByte_next h
        cases h; simp
    · cases h; simp
  · unfold stepECopy at h
    split at h
    · obtain ⟨_, h⟩ := readByte_next h
      obtain ⟨_, h⟩ := writeByte_next h
      cases h; simp
    · cases h; simp
  · unfold stepDCheck at h; split at h <;> cases h <;> simp
  · unfold stepDHdr at h
    split at h
    · obtain ⟨_, h⟩ := readByte_next h
      cases h; simp
    · cases h; simp
  · unfold stepDLenchk at h
    split at h
    · cases h; simp
    · split at h <;> cases h <;> simp
  · unfold stepDPayload storeChar at h
    split at h
    · obtain ⟨_, h⟩ := readByte_next h
      split at h
      · obtain ⟨_, h⟩ := writeByte_next h
        cases h; simp
      · cases h; simp
    · cases h; simp

/-- In a state that meets the invariant the engine always has its step (R70). -/
theorem engineStep_total {s : State} (hi : BlockInv s) : ∃ t, engineStep s = .next t := by
  rcases hp : s.phase with _ | _ | _ | _ | _ | _ | _ | _
  · exact ⟨_, engineStep_idle hp⟩
  · rw [engineStep_eCheck hp]
    split <;> exact ⟨_, rfl⟩
  · rcases Nat.lt_or_ge s.idx.toNat s.flen.toNat with h | h
    · exact ⟨_, engineStep_eEmbed_write hi hp h⟩
    · exact ⟨_, engineStep_eEmbed_end hp h⟩
  · rcases Nat.lt_or_ge s.idx.toNat s.cap.toNat with h | h
    · exact ⟨_, engineStep_eCopy_write hi hp h⟩
    · exact ⟨_, engineStep_eCopy_end hp h⟩
  · rw [engineStep_dCheck hp]
    split <;> exact ⟨_, rfl⟩
  · rcases Nat.lt_or_ge s.idx.toNat 32 with h | h
    · exact ⟨_, engineStep_dHdr_read hi hp h⟩
    · exact ⟨_, engineStep_dHdr_end hp h⟩
  · rw [engineStep_dLenchk hp]
    split
    · exact ⟨_, rfl⟩
    · split <;> exact ⟨_, rfl⟩
  · rcases Nat.lt_or_ge s.idx.toNat (32 + s.plen.toNat) with h | h
    · exact ⟨_, engineStep_dPayload_read hi hp h⟩
    · exact ⟨_, engineStep_dPayload_end hp h⟩

end Sys2Proof.Machine
end

