-- ==== Sys2Proof/Tests/Slice0.lean ====
section
/-! SUPPORT. Tests against the spec's own words and vectors (95_test_vectors.md), and for every statement with hypotheses
a concrete state that meets them. -/

namespace Sys2Proof.Tests

open Sys2Proof Sys2Proof.Machine

/-! ## Well-formedness: an ill-formed configuration for each bound of R11, and the bounds themselves -/

theorem test_legal_vectors : Config.ofVectors.legal = true := by decide
theorem test_legal_largest : Config.legal { pixDepth := 2 ^ 32 - 1, msgDepth := 536870907 } = true := by decide
theorem test_illegal_pixDepth : Config.legal { pixDepth := 2 ^ 32, msgDepth := 2 ^ 32 } = false := by decide
theorem test_illegal_msgDepth : Config.legal { pixDepth := 64, msgDepth := 3 } = false := by decide
theorem test_legal_tiny : Config.legal { pixDepth := 31, msgDepth := 0 } = true := by decide
theorem test_wf : Instr.nop.wf = true ∧ Instr.encode.wf = true ∧ Instr.decode.wf = true ∧ Instr.reserved3.wf = true := by
  decide

/-! ## Decoding: words written bit by bit from R104 (`word[1:0]`, all other bits ignored) -/

theorem test_decode_nop : decodeWord 0b00000000000000000000000000000000#32 = .nop := by decide
theorem test_decode_nop_V41 : decodeWord 0b11111111111111111111111111111100#32 = .nop := by decide
theorem test_decode_encode : decodeWord 0b00000000000000000000000000000001#32 = .encode := by decide
theorem test_decode_encode_V47 : decodeWord 0b10000000000000000000000000000001#32 = .encode := by decide
theorem test_decode_decode : decodeWord 0b00000000000000000000000000000010#32 = .decode := by decide
theorem test_decode_reserved : decodeWord 0b00000000000000000000000000000011#32 = .reserved3 := by decide
theorem test_decode_reserved_V43 : decodeWord 0b00000000000000000000000000000111#32 = .reserved3 := by decide
theorem test_decode_rejects : decode 0 0 = .error .noBits ∧ decode 33 0 = .error .widerThanOneWord := by decide
theorem test_table_word : decodeTableWord 32 2 = some .decode ∧ decodeTableWord 32 3 = some .reserved3 := by decide
theorem test_encode : encode .nop = 0#32 ∧ encode .encode = 1#32 ∧ encode .decode = 2#32 ∧ encode .reserved3 = 3#32 := by
  decide

/-! ## The first command after reset -/

/-- One observation of a move's next state; `none` when there is none. -/
def after {α : Type} (f : State → α) : Out → Option α
  | .next t => some (f t)
  | .fault _ => none
  | .refused _ => none

/-- The fault of a move that ends in one. -/
def faultOf : Out → Option Fault
  | .next _ => none
  | .fault f => some f
  | .refused _ => none

/-- The refusal of a move that ends in one. -/
def refusalOf : Out → Option Refusal
  | .next _ => none
  | .fault _ => none
  | .refused r => some r

/-- What V40 to V47 look at. -/
def seen (t : State) : Nat × Phase × Nat × Nat := (t.status.word.toNat, t.phase, t.cap.toNat, t.outLen.toNat)

/-- An idle block after reset with these three argument registers. -/
def args (w h l : Word) : State := { State.reset with width := w, height := h, msgLen := l }

theorem test_nop_V40 : after seen (step (State.reset.withFetchWord 32 0)) = some (0, .idle, 0, 0) := by decide
/-- R181's example: STATUS 0x00000226 before and after. -/
theorem test_nop_keeps_error :
    after seen (step (State.withFetchWord { State.reset with
      status := .raised .decodeError .lengthTooLong } 32 0)) = some (0x226, .idle, 0, 0) := by decide
theorem test_reserved_V42 : after seen (step (State.reset.withFetchWord 32 3)) = some (0x46, .idle, 0, 0) := by decide
theorem test_encode_V44 : after seen (step ((args 5 5 0).withFetchWord 32 1)) = some (0x36, .idle, 0, 0) := by decide
theorem test_decode_V45 : after seen (step ((args 65536 65536 0).withFetchWord 32 2)) = some (0x36, .idle, 0, 0) := by
  decide
theorem test_decode_V46 : after seen (step ((args 4 5 0).withFetchWord 32 2)) = some (1, .dCheck, 60, 0) := by decide
theorem test_encode_V47 : after seen (step ((args 4 5 0).withFetchWord 32 0x80000001)) = some (1, .eCheck, 60, 0) := by
  decide
/-- V50: a write to STATUS is ignored. -/
theorem test_write_status : after seen (hostWriteReg 1 0xFFFFFFFF#32 State.reset) = some (0, .idle, 0, 0) := by decide

/-! ## Bits and frames -/

/-- R17: `setlsb(0xFF, 0) = 0xFE`, `setlsb(0x00, 1) = 0x01`, `setlsb(0xFE, 1) = 0xFF`. -/
theorem test_setlsb : setlsb 0xFF#8 false = 0xFE#8 ∧ setlsb 0x00#8 true = 0x01#8 ∧ setlsb 0xFE#8 true = 0xFF#8 := by
  decide

/-- R109: of the 40 positions of the frame of "A", 28, 33 and 39 carry 1. -/
theorem test_frame_A : (List.range 40).filter (frameBit 1 fun _ => 0x41#8) = [28, 33, 39] := by decide

/-- Section 2.2 of the vectors: pixel (3, 2) of a 5-wide image, green. -/
theorem test_sampleIndex : sampleIndex 5 2 3 1 = 40 ∧ sampleIndex 5 1 0 0 = 15 := by decide

/-- V24: the low bits 1 0 1 0 0 1 0 1 are the character A5. -/
theorem test_messageChar :
    messageChar (fun i => if i ∈ [32, 34, 37, 39] then 0x11#8 else 0x10#8) 0 = 0xA5#8 := by decide

/-- V14: FLEN is exact beyond 32 bits. -/
theorem test_flen_V14 : after (fun t => t.flen.toNat) (exec .encode (args 4 4 536870912)) = some 4294967328 := by decide

/-! ## Engine steps -/

/-- ENCODE of "A" into a 5 x 3 image (V2), the engine at sample `i` of phase `p`. -/
def encodingA (p : Phase) (i : BitVec 33) : State :=
  { (args 5 3 1).acceptEncode with phase := p, idx := i, msgIn := [(0, 0x41#8)] }

/-- V2: sample 33 goes from D0 to D1. -/
theorem test_embed_V2 :
    after (fun t => (Memory.read t.outPix 33, t.idx.toNat))
      (engineStep { encodingA .eEmbed 33 with pix := [(33, 0xD0#8)] }) = some (0xD1#8, 34) := by decide

/-- V2: sample 40 is copied. -/
theorem test_copy_V2 :
    after (fun t => (Memory.read t.outPix 40, t.idx.toNat))
      (engineStep { encodingA .eCopy 40 with pix := [(40, 0xF5#8)] }) = some (0xF5#8, 41) := by decide

/-- DECODE of a 5 x 3 image (V24), the engine at sample `i` of phase `p`, with these PLEN and SHREG. -/
def decoding (p : Phase) (i : BitVec 33) (len : BitVec 32) (sh : Byte) : State :=
  { (args 5 3 0).acceptDecode with phase := p, idx := i, plen := len, shreg := sh }

/-- V24, step 43: the byte A5 is complete. -/
theorem test_payload_V24 :
    after (fun t => (Memory.read t.msgOut 0, t.shreg, t.idx.toNat))
      (engineStep { decoding .dPayload 39 8 0x52 with pix := [(39, 0x11#8)] }) = some (0xA5#8, 0xA5#8, 40) := by decide

/-- V24, step 44: the end. -/
theorem test_payload_end_V24 :
    after seen (engineStep (decoding .dPayload 40 8 0xA5)) = some (2, .idle, 45, 1) := by decide

/-- V25: `32 + PLEN` does not wrap. -/
theorem test_lenchk_V25 :
    after seen (engineStep (decoding .dLenchk 32 0xFFFFFFFF 0)) = some (0x226, .idle, 45, 0) := by decide

/-- V26: PLEN = 4 fits 45 samples and is no multiple of 8. -/
theorem test_lenchk_V26 : after seen (engineStep (decoding .dLenchk 32 4 0)) = some (0x326, .idle, 45, 0) := by decide

/-! ## States that meet the hypotheses of the statements -/

/-- An idle block: "A" to be put into a 5 x 3 image whose low bits hold a message of one character. -/
def idleA : State :=
  { args 5 3 1 with msgIn := [(0, 0x41#8)], pix := [(28, 0x11#8), (33, 0x11#8)], outPix := [(2, 0x07#8)] }

/-- The smallest image a frame fits (R138), all zero, and the empty message: idle, no turn left. -/
def idleTiny : State := args 11 1 0

theorem test_witness_idleA : BlockInv idleA := by
  constructor
  case memGood => intro m; cases m <;> rfl
  all_goals decide

theorem test_witness_idleTiny : BlockInv idleTiny := by
  constructor
  case memGood => intro m; cases m <;> rfl
  all_goals decide

theorem test_witness_idleA_progress : Progress idleA := by constructor <;> decide

/-- ENCODE of idleA at its first step, in the frame, at the end of the frame, in the copy and at its end. -/
def runA (p : Phase) (i : BitVec 33) (out : Memory) : State :=
  { idleA.acceptEncode with phase := p, idx := i, outPix := out }

theorem test_witness_eCheck : BlockInv (runA .eCheck 0 []) ∧ Progress (runA .eCheck 0 []) := by
  constructor <;> constructor
  case left.memGood => intro m; cases m <;> rfl
  all_goals decide

theorem test_witness_eEmbed : BlockInv (runA .eEmbed 1 []) ∧ Progress (runA .eEmbed 1 []) := by
  constructor <;> constructor
  case left.memGood => intro m; cases m <;> rfl
  all_goals decide

/-- What OUT_PIX holds at the end of the frame of "A" (R109). -/
def framedA : Memory := [(28, 0x11#8), (33, 0x11#8), (39, 0x01#8)]

theorem test_witness_eEmbed_end : BlockInv (runA .eEmbed 40 framedA) ∧ Progress (runA .eEmbed 40 framedA) := by
  constructor <;> constructor
  case left.memGood => intro m; cases m <;> rfl
  all_goals decide

theorem test_witness_eCopy : BlockInv (runA .eCopy 44 framedA) ∧ Progress (runA .eCopy 44 framedA) := by
  constructor <;> constructor
  case left.memGood => intro m; cases m <;> rfl
  all_goals decide

theorem test_witness_eCopy_end : BlockInv (runA .eCopy 45 framedA) ∧ Progress (runA .eCopy 45 framedA) := by
  constructor <;> constructor
  case left.memGood => intro m; cases m <;> rfl
  all_goals decide

/-- DECODE of idleA's image: PLEN = 8, the character 0x40. -/
def readA (p : Phase) (i : BitVec 33) (len : BitVec 32) (sh : Byte) (out : Memory) : State :=
  { idleA.acceptDecode with phase := p, idx := i, plen := len, shreg := sh, msgOut := out }

theorem test_witness_dCheck : BlockInv (readA .dCheck 0 0 0 []) ∧ Progress (readA .dCheck 0 0 0 []) := by
  constructor <;> constructor
  case left.memGood => intro m; cases m <;> rfl
  all_goals decide

theorem test_witness_dHdr : BlockInv (readA .dHdr 31 4 0 []) ∧ Progress (readA .dHdr 31 4 0 []) := by
  constructor <;> constructor
  case left.memGood => intro m; cases m <;> rfl
  all_goals decide

theorem test_witness_dHdr_end : BlockInv (readA .dHdr 32 8 0 []) ∧ Progress (readA .dHdr 32 8 0 []) := by
  constructor <;> constructor
  case left.memGood => intro m; cases m <;> rfl
  all_goals decide

theorem test_witness_dLenchk : BlockInv (readA .dLenchk 32 8 0 []) ∧ Progress (readA .dLenchk 32 8 0 []) := by
  constructor <;> constructor
  case left.memGood => intro m; cases m <;> rfl
  all_goals decide

theorem test_witness_dPayload : BlockInv (readA .dPayload 39 8 0x20 []) ∧ Progress (readA .dPayload 39 8 0x20 []) := by
  constructor <;> constructor
  case left.memGood => intro m; cases m <;> rfl
  all_goals decide

theorem test_witness_dPayload_end :
    BlockInv (readA .dPayload 40 8 0x40 [(0, 0x40#8)]) ∧ Progress (readA .dPayload 40 8 0x40 [(0, 0x40#8)]) := by
  constructor <;> constructor
  case left.memGood => intro m; cases m <;> rfl
  all_goals decide

/-- The invariant does not look at the turns. -/
theorem BlockInv.withTurns {s : State} (h : BlockInv s) (ts : List Turn) : BlockInv { s with turns := ts } := { h with }

/-! ## One witness for the hypotheses of each statement -/

/-- ResetActionClearsRegisters: with and without an operation in progress. -/
theorem test_witness_reset :
    ({ idleA with turns := [.host .reset] } : State).turns = .host .reset :: [] ∧ idleA.status.busy = false ∧
      (runA .eEmbed 1 []).status.busy = true := by decide

/-- TwoResetsEqualOne. -/
theorem test_witness_twoResets :
    (∃ t, hostReset (readA .dPayload 39 8 0x20 []) = .next t) ∧ (∃ t, hostReset idleTiny = .next t) ∧
      idleTiny.cfg = (readA .dPayload 39 8 0x20 []).cfg := ⟨⟨_, rfl⟩, ⟨_, rfl⟩, rfl⟩

/-- ResetWhileBusyFreesOutputRange: the ENCODE clause and the two DECODE clauses; with indices on either side of the
range. -/
theorem test_witness_resetWhileBusy :
    (BlockInv (runA .eCopy 44 framedA) ∧ Progress (runA .eCopy 44 framedA) ∧
      (runA .eCopy 44 framedA).status.busy = true ∧ (runA .eCopy 44 framedA).opr = .enc) ∧
    (BlockInv (readA .dPayload 39 8 0x20 []) ∧ Progress (readA .dPayload 39 8 0x20 []) ∧
      (readA .dPayload 39 8 0x20 []).status.busy = true ∧ (readA .dPayload 39 8 0x20 []).opr = .dec ∧
      (readA .dPayload 39 8 0x20 []).phase = .dPayload) :=
  ⟨⟨test_witness_eCopy.1, test_witness_eCopy.2, rfl, rfl⟩, test_witness_dPayload.1, test_witness_dPayload.2, rfl, rfl, rfl⟩

/-- NopChangesNothing, CommandIgnoredWhileBusy. -/
theorem test_witness_busy :
    (0xFFFFFFFC#32 : Word).toNat % 4 = 0 ∧ (runA .eCheck 0 []).status.busy = true := by decide

/-- AcceptanceLatchesOperands: an image that fills PIX but for one sample (63 of 64), and an empty one. -/
theorem test_witness_acceptance :
    ((args 21 1 5).status.busy = false ∧ 3 * (args 21 1 5).width.toNat * (args 21 1 5).height.toNat ≤ 64 ∧
      (args 21 1 5).cfg.pixDepth = 64 ∧ (args 21 1 5).cfg.pixDepth ≤ 2 ^ 32 - 1) ∧
    ((args 0 65536 0).status.busy = false ∧ 3 * (args 0 65536 0).width.toNat * (args 0 65536 0).height.toNat ≤ 64) := by
  decide

/-- OversizeImageRejected: 66 samples, the least multiple of 3 above 64, for both commands. -/
theorem test_witness_oversize :
    (args 22 1 0).status.busy = false ∧
      (args 22 1 0).cfg.pixDepth < 3 * (args 22 1 0).width.toNat * (args 22 1 0).height.toNat := by decide

/-- ReservedCommandRejected. -/
theorem test_witness_reserved : idleA.status.busy = false := rfl

/-- CommandFrame: an accepted command, a rejected one and an ignored one have next states. -/
theorem test_witness_commandFrame :
    after seen (exec .decode idleA) = some (1, .dCheck, 45, 0) ∧ after seen (exec .reserved3 idleA) = some (0x46, .idle, 0, 0) ∧
      after seen (exec .encode (runA .eEmbed 1 [])) = some (1, .eEmbed, 45, 0) := by decide

/-- AcceptanceForgetsEarlierOperations: a block fresh from reset and one that an earlier DECODE has ended in. -/
def usedA : State :=
  { idleA with
    status := { Status.clear with done := true }, outLen := 1, cap := 45, flen := 40, llen := 1, plen := 8, idx := 40,
    shreg := 0x41 }

theorem test_witness_forgets :
    usedA = { idleA with status := usedA.status, outLen := usedA.outLen, opr := usedA.opr, phase := usedA.phase,
                         cap := usedA.cap, flen := usedA.flen, llen := usedA.llen, plen := usedA.plen, idx := usedA.idx,
                         shreg := usedA.shreg } ∧
    idleA.status.busy = false ∧ usedA.status.busy = false ∧ idleA.requestedCap ≤ idleA.cfg.pixDepth ∧
    after seen (exec .encode idleA) = some (1, .eCheck, 45, 0) ∧
    after seen (exec .encode usedA) = some (1, .eCheck, 45, 0) ∧
    after seen (exec .decode idleA) = some (1, .dCheck, 45, 0) ∧
    after seen (exec .decode usedA) = some (1, .dCheck, 45, 0) := by decide

/-- StepRunsDecodedCommand, StepRunsTheEngine. -/
theorem test_witness_step :
    ({ idleA with turns := [.host (.writeReg 0 1), .engine] } : State).turns = .host (.writeReg 0 1) :: [.engine] ∧
      (0xFFFFFFFF : Nat) < 2 ^ 32 ∧ idleA.turns = [] ∧
      ({ idleA with turns := [.engine] } : State).turns = .engine :: [] := by decide

theorem test_witness_engine :
    (BlockInv idleA ∧ idleA.status.busy = false) ∧ BlockInv (runA .eCheck 0 []) ∧ (runA .eCheck 0 []).status.busy = true :=
  ⟨⟨test_witness_idleA, rfl⟩, test_witness_eCheck.1, rfl⟩

/-- HostRegisterAccess: a write to each writable register and to ones that ignore it, and a read of each. -/
theorem test_witness_registers :
    ∀ n ∈ [1, 2, 3, 4, 5, 6], n ≠ 0 ∧
      ({ idleA with turns := [.host (.writeReg n 9)] } : State).turns = .host (.writeReg n 9) :: [] ∧
      ({ idleA with turns := [.host (.readReg n)] } : State).turns = .host (.readReg n) :: [] := by decide

/-- RegisterWriteCommutesWithEngine: a step that has a next state, and (in a state that no run reaches) one that has
none: the engine at a sample beyond PIX. -/
theorem test_witness_commutes :
    after seen (engineStep (runA .eEmbed 1 [])) = some (1, .eEmbed, 45, 0) ∧
      faultOf (engineStep { runA .eCopy 64 [] with cap := 65 }) = some (.noSuchLocation .pix 64) := by decide

/-- StatusIsSticky: a NOP written while the last error still stands. -/
theorem test_witness_sticky :
    let s : State := { usedA with turns := [.host (.writeReg 0 0xFFFFFFFC)] }
    s.status.busy = false ∧ after seen (step s) = some (2, .idle, 45, 1) ∧ (0xFFFFFFFC#32 : Word).toNat % 4 = 0 ∧
      s.turns ≠ [.host .reset] := by decide

theorem test_witness_sticky_inv : BlockInv usedA := by
  constructor
  case memGood => intro m; cases m <;> rfl
  all_goals decide

/-- BusyChangesOnlyAtStartAndEnd: a start, an end and a reset. -/
theorem test_witness_busyChanges :
    after (fun t => t.status.busy) (step { idleA with turns := [.host (.writeReg 0 1)] }) = some true ∧
      after (fun t => t.status.busy) (step (runA .eCopy 45 framedA)) = some false ∧
      after (fun t => t.status.busy) (step { readA .dCheck 0 0 0 [] with turns := [.host .wait] }) = some true := by decide

/-- HostMemoryAccess, HostMemoryMisuseStops: the last location of each memory and the first that does not exist. -/
theorem test_witness_hostMemory :
    ∀ m ∈ [MemId.pix, .msgIn, .outPix, .msgOut],
      depthOf idleA.cfg m - 1 < depthOf idleA.cfg m ∧ idleA.status.busy = false ∧
      ({ idleA with turns := [.host (.writeMem m (depthOf idleA.cfg m - 1) 7)] } : State).turns =
        .host (.writeMem m (depthOf idleA.cfg m - 1) 7) :: [] ∧
      ({ idleA with turns := [.host (.readMem m (depthOf idleA.cfg m - 1))] } : State).turns =
        .host (.readMem m (depthOf idleA.cfg m - 1)) :: [] ∧
      depthOf idleA.cfg m ≤ depthOf idleA.cfg m ∧
      faultOf (step { idleA with turns := [.host (.readMem m (depthOf idleA.cfg m))] }) =
        some (.noSuchLocation m (depthOf idleA.cfg m)) ∧
      refusalOf (step { runA .eEmbed 1 [] with turns := [.host (.writeMem m 0 7)] }) =
        some (.hostMemoryWhileBusy m 0) := by decide

/-- HostCopyMovesOneSample. -/
theorem test_witness_copyByte :
    idleA.status.busy = false ∧ 63 < idleA.cfg.pixDepth ∧
      ({ idleA with turns := [.host (.copyByte 63)] } : State).turns = .host (.copyByte 63) :: [] ∧
      after (fun t => Memory.read t.pix 2) (step { idleA with turns := [.host (.copyByte 2)] }) = some 0x07#8 := by decide

/-- DecoderSums: the largest length. -/
theorem test_witness_decoderSums : 2 ^ 32 - 1 < 2 ^ 32 := by decide

/-- FrameBitFormula: the last length bit, the first and the last payload bit. -/
theorem test_witness_frameBit : (31 < 32 + 8 * 1 ∧ 32 < 32 + 8 * 1 ∧ 39 < 32 + 8 * 1) ∧ 8 * 1 < 2 ^ 32 := by decide

/-- FrameReadsBack: the smallest image that holds the empty message. -/
theorem test_witness_frameReadsBack :
    8 * 0 < 2 ^ 32 ∧ ∃ out, encodeImage 11 1 0 (fun _ => 0#8) (fun _ => 0x10#8) = .ok out :=
  ⟨by decide, _, rfl⟩

/-- SampleOrder: the last sample of a 5 x 3 image. -/
theorem test_witness_sampleOrder : 2 < 3 ∧ 4 < 5 ∧ 2 < 3 ∧ 44 < capacityOf 5 3 ∧ sampleIndex 5 2 4 2 = 44 := by decide

/-- The statements about one engine step: each phase, below and at the end of its range. -/
theorem test_witness_phases :
    (runA .eCheck 0 []).phase = .eCheck ∧ (readA .dCheck 0 0 0 []).phase = .dCheck ∧
      (readA .dLenchk 32 8 0 []).phase = .dLenchk ∧
      ((runA .eEmbed 1 []).phase = .eEmbed ∧ (runA .eEmbed 1 []).idx.toNat < (runA .eEmbed 1 []).flen.toNat) ∧
      ¬ (runA .eEmbed 40 framedA).idx.toNat < (runA .eEmbed 40 framedA).flen.toNat ∧
      ((runA .eCopy 44 framedA).phase = .eCopy ∧ (runA .eCopy 44 framedA).idx.toNat < (runA .eCopy 44 framedA).cap.toNat) ∧
      ¬ (runA .eCopy 45 framedA).idx.toNat < (runA .eCopy 45 framedA).cap.toNat ∧
      ((readA .dHdr 31 4 0 []).phase = .dHdr ∧ (readA .dHdr 31 4 0 []).idx.toNat < 32) ∧
      ¬ (readA .dHdr 32 8 0 []).idx.toNat < 32 ∧ ((readA .dPayload 39 8 0x20 []).idx.toNat - 32) % 8 = 7 ∧
      ((readA .dPayload 39 8 0x20 []).phase = .dPayload ∧ (readA .dPayload 39 8 0x20 []).idx.toNat < 32 + 8) ∧
      ¬ (readA .dPayload 40 8 0x40 []).idx.toNat < 32 + 8 := by decide

/-- PhaseTransitions, InputsAreNeverWritten: a command, a reset, a host action and an engine step with next states. -/
theorem test_witness_transitions :
    after seen (exec .encode idleA) = some (1, .eCheck, 45, 0) ∧
      (∃ t, hostReset (readA .dHdr 31 4 0 []) = .next t) ∧
      after seen (step { runA .eEmbed 1 [] with turns := [.host (.writeReg 2 1)] }) = some (1, .eEmbed, 45, 0) ∧
      after seen (engineStep (readA .dHdr 31 4 0 [])) = some (1, .dHdr, 45, 0) :=
  ⟨by decide, ⟨_, rfl⟩, by decide, by decide⟩

/-- ResetMeetsInvariant: a legal configuration. -/
theorem test_witness_legal : Config.legal { pixDepth := 0, msgDepth := 0 } = true := by decide

/-- StepKeepsInvariant, StepKeepsProgress: a step of the engine and a host action, both with next states. -/
theorem test_witness_keeps :
    (BlockInv (runA .eEmbed 1 []) ∧ Progress (runA .eEmbed 1 []) ∧
      after seen (step (runA .eEmbed 1 [])) = some (1, .eEmbed, 45, 0)) ∧
    (BlockInv { idleA with turns := [.host (.writeMem .pix 0 1)] } ∧
      after seen (step { idleA with turns := [.host (.writeMem .pix 0 1)] }) = some (0, .idle, 0, 0)) :=
  ⟨⟨test_witness_eEmbed.1, test_witness_eEmbed.2, by decide⟩, BlockInv.withTurns test_witness_idleA _, by decide⟩

/-- OnlyHostMisuseStops, IndexNeverSkips: states that meet the invariant, idle and busy (see also the states above). -/
theorem test_witness_onlyMisuse : BlockInv { runA .eEmbed 1 [] with turns := [.host (.writeMem .pix 0 1)] } :=
  BlockInv.withTurns test_witness_eEmbed.1 _

/-- EncodeRunsToItsFunction, EncodeSchedule, RoundTrip (outer), DecodeRunsToItsFunction: an operation that succeeds and
one that does not fit (R138: one character needs 40 samples). -/
theorem test_witness_operations :
    BlockInv idleTiny ∧ idleTiny.idleAlone ∧ idleTiny.requestedCap ≤ idleTiny.cfg.pixDepth ∧
      frameLength idleTiny.msgLen.toNat ≤ idleTiny.requestedCap ∧ 32 + 8 * idleTiny.msgLen.toNat ≤ idleTiny.requestedCap ∧
      (args 11 1 1).requestedCap < frameLength (args 11 1 1).msgLen.toNat :=
  ⟨test_witness_idleTiny, ⟨rfl, rfl⟩, by decide, by decide, by decide, by decide⟩

/-- DecodeSchedule, DecodeRunsToItsFunction: the empty message and a message of one character. -/
theorem test_witness_decodeImage :
    decodeImage idleTiny.width.toNat idleTiny.height.toNat (Memory.read idleTiny.pix) = .ok [] ∧
      decodeImage idleA.width.toNat idleA.height.toNat (Memory.read idleA.pix) = .ok [0x40#8] := ⟨rfl, rfl⟩

/-- How an operation that a command starts in `s` stands after `n` moves. -/
def ends (i : Instr) (s : State) (n : Nat) : Option (Bool × Bool × Nat) :=
  match exec i s with
  | .next t => after (fun u => (u.status.busy, u.status.err, u.outLen.toNat)) (runs n t)
  | .fault _ => none
  | .refused _ => none

/-- EncodeChangesOnlyLowBits, EncodeSucceedsUpToLargestMessage, EncodeDependsOnlyOnItsOperands, RoundTrip: an ENCODE that
ends without error, CAP + 3 = 36 moves (R127), and one that ends with CapacityError after one. -/
theorem test_witness_encodeEnds :
    ends .encode idleTiny 36 = some (false, false, 0) ∧ ends .encode (args 11 1 1) 1 = some (false, true, 0) := by decide

/-- DecodeDependsOnlyOnFrameLowBits, DecodeTwiceIsDecodeOnce: a DECODE that ends without error, PLEN + 36 moves (R157),
another geometry of the same frame, and a DECODE that ends with DecodeError after one move. -/
theorem test_witness_decodeEnds :
    ends .decode idleTiny 36 = some (false, false, 0) ∧ ends .decode (args 4 3 0) 36 = some (false, false, 0) ∧
      (32 + declaredLength (Memory.read idleTiny.pix) ≤ idleTiny.requestedCap ∧
        32 + declaredLength (Memory.read idleTiny.pix) ≤ (args 4 3 0).requestedCap) ∧
      ends .decode (args 5 2 0) 1 = some (false, true, 0) := by decide

/-- RoundTrip, the second image: an all-zero image is its own encoding of the empty message, so idleTiny meets the inner
hypotheses too. -/
theorem test_witness_roundTrip :
    ∃ t u, exec .encode idleTiny = .next t ∧ runs (idleTiny.requestedCap + 3) t = .next u ∧
      ∀ i, i < idleTiny.requestedCap → lsb (Memory.read idleTiny.pix i) = lsb (Memory.read u.outPix i) :=
  ⟨_, _, rfl, rfl, by decide⟩

/-- ErrorsLeaveMemoriesAlone: a command that is rejected, and operations that end in an error after one move. -/
theorem test_witness_errors :
    ends .reserved3 idleA 0 = some (false, true, 0) ∧ ends .encode (args 11 1 1) 1 = some (false, true, 0) ∧
      ends .decode (args 5 2 0) 1 = some (false, true, 0) := by decide

/-- EveryOperationEnds. -/
theorem test_witness_endsAlone :
    BlockInv (readA .dHdr 31 4 0 []) ∧ (readA .dHdr 31 4 0 []).turns = [] ∧ (readA .dHdr 31 4 0 []).status.busy = true :=
  ⟨test_witness_dHdr.1, rfl, rfl⟩

end Sys2Proof.Tests
end

section
/-! PROOFS. R17: a byte is its bits 7 to 1 and its bit 0, and setlsb replaces only bit 0. -/

namespace Sys2Proof.Machine

/-- A byte's value is that of its bits 7 to 1 plus its bit 0; checked on all 256 bytes. -/
theorem toNat_eq_upper_add_lsb (v : Byte) : v.toNat = (v &&& 0xFE#8).toNat + (lsb v).toNat := by
  revert v; decide

/-- Writing bit 0 keeps the part of the value that bits 7 to 1 hold. -/
theorem setlsb_toNat (v : Byte) (b : Bool) : (setlsb v b).toNat = (v &&& 0xFE#8).toNat + b.toNat := by
  rw [toNat_eq_upper_add_lsb, setlsb_upper, lsb_setlsb]

@[simp] theorem setlsb_lsb (v : Byte) : setlsb v (lsb v) = v :=
  BitVec.eq_of_toNat_eq ((setlsb_toNat v (lsb v)).trans (toNat_eq_upper_add_lsb v).symm)

/-- Both values share the part of bits 7 to 1, and a single bit is at most 1. -/
theorem setlsb_toNat_le_and_ge (v : Byte) (b : Bool) :
    (setlsb v b).toNat ≤ v.toNat + 1 ∧ v.toNat ≤ (setlsb v b).toNat + 1 := by
  have hset := setlsb_toNat v b
  have hval := toNat_eq_upper_add_lsb v
  have hb := b.toNat_le
  have hlsb := (lsb v).toNat_le
  constructor <;> omega

/-- Settles O27: bit 0 is read back, the rest is kept, and the bounds follow from the byte's value in those two parts. -/
theorem setlsbReplacesOnlyBitZero : Obligations.SetlsbReplacesOnlyBitZero := by
  intro v b
  obtain ⟨hle, hge⟩ := setlsb_toNat_le_and_ge v b
  exact ⟨setlsb_upper v b, lsb_setlsb v b, hle, hge, setlsb_lsb v⟩

end Sys2Proof.Machine
end

section
/-! PROOFS. R38, R190: what a host access to a register hands back, what it stores, and the move that makes it. -/

namespace Sys2Proof.Machine

/-- R38: the value of every register number at once; 0 for CMD and above 5. -/
theorem State.readReg_eq_ite (s : State) (n : Nat) :
    s.readReg n = if n = 1 then s.status.word else if n = 2 then s.width else if n = 3 then s.height
      else if n = 4 then s.msgLen else if n = 5 then s.outLen else 0#32 := by
  unfold State.readReg
  split
  case h_1 | h_2 | h_3 | h_4 | h_5 => rfl
  case h_6 h₁ h₂ h₃ h₄ h₅ => rw [if_neg h₁, if_neg h₂, if_neg h₃, if_neg h₄, if_neg h₅]

/-- R38: each writable register takes the value at its own number only; no other field changes at any number. -/
theorem State.writeReg_eq_ite (s : State) (n : Nat) (v : Word) :
    s.writeReg n v = { s with
      width := if n = 2 then v else s.width
      height := if n = 3 then v else s.height
      msgLen := if n = 4 then v else s.msgLen } := by
  unfold State.writeReg
  split
  case h_1 | h_2 | h_3 => rfl
  case h_4 h₂ h₃ h₄ => rw [if_neg h₂, if_neg h₃, if_neg h₄]

theorem step_of_writeReg_turn {s : State} {rest : List Turn} {n : Nat} {v : Word}
    (h : s.turns = .host (.writeReg n v) :: rest) :
    step s = hostWriteReg n v { s with turns := rest } := by
  rw [step, move, h]

theorem step_of_readReg_turn {s : State} {rest : List Turn} {n : Nat}
    (h : s.turns = .host (.readReg n) :: rest) :
    step s = hostReadReg n { s with turns := rest } := by
  rw [step, move, h]

/-- Only register 0 is the command event (R187): at any other number a host write is the storing part alone. -/
theorem hostWriteReg_of_ne_zero {n : Nat} (hn : n ≠ 0) (v : Word) (s : State) :
    hostWriteReg n v s = .next (s.writeReg n v) := if_neg hn

/-- Settles O20: the move is the host access of its turn, and the access is the register's by its number. -/
theorem hostRegisterAccess : Obligations.HostRegisterAccess := by
  intro s rest n v
  constructor
  case left =>
    intro hturn hn
    rw [step_of_writeReg_turn hturn, hostWriteReg_of_ne_zero hn, State.writeReg_eq_ite]
  case right =>
    intro hturn
    rw [step_of_readReg_turn hturn, hostReadReg, State.readReg_eq_ite]
    rfl

end Sys2Proof.Machine
end

section
/-! PROOFS. R72: neither an engine step nor a command writes PIX or MSG_IN. -/

namespace Sys2Proof.Machine

/-! No end of an operation, no rejection and no acceptance stores a byte. -/

@[simp] theorem State.goto_mem (s : State) (p : Phase) (m : MemId) : (s.goto p).mem m = s.mem m := rfl
@[simp] theorem State.raise_mem (s : State) (c : ErrCode) (d : Detail) (m : MemId) :
    (s.raise c d).mem m = s.mem m := rfl
@[simp] theorem State.reject_mem (s : State) (c : ErrCode) (m : MemId) : (s.reject c).mem m = s.mem m := rfl
@[simp] theorem State.acceptEncode_mem (s : State) (m : MemId) : s.acceptEncode.mem m = s.mem m := rfl
@[simp] theorem State.acceptDecode_mem (s : State) (m : MemId) : s.acceptDecode.mem m = s.mem m := rfl

/-- A command stores no byte: of its five answers (R181 to R187) none touches a memory. -/
theorem exec_mem {i : Instr} {s t : State} (h : exec i s = .next t) (m : MemId) : t.mem m = s.mem m := by
  rcases exec_cases i s with ⟨hexec, -⟩ | ⟨hexec, -⟩ | ⟨hexec, -⟩ | ⟨hexec, -⟩ | ⟨hexec, -⟩ <;>
    cases hexec.symm.trans h <;> simp

/-- Settles O40: the engine's part is its frame in every state, the commands' part that they store nothing. -/
theorem inputsAreNeverWritten : Obligations.InputsAreNeverWritten :=
  ⟨fun _ _ h => engineStep_unchanged h, fun _ _ _ h => ⟨exec_mem h .pix, exec_mem h .msgIn⟩⟩

end Sys2Proof.Machine
end

section
/-! PROOFS. R71, R210: an error is raised only in a phase that comes before the first store of its operation, and a
phase that stores never raises one; so where ERR = 1, nothing has been stored. -/

namespace Sys2Proof.Machine

/-! What a phase's step goes on with, when it answers a next state -/

theorem embedBit_next {s t : State} {k : Bool → Out} (h : embedBit s k = .next t) : ∃ b, k b = .next t := by
  unfold embedBit at h
  split at h
  case isTrue => exact ⟨_, h⟩
  case isFalse => exact ⟨_, (readByte_next h).2⟩

theorem storeChar_next {c : Byte} {s t : State} {k : State → Out} (h : storeChar c s k = .next t) :
    k s = .next t ∨ ∃ x, k (s.setMem .msgOut x) = .next t := by
  unfold storeChar at h
  split at h
  case isTrue => exact .inr ⟨_, (writeByte_next h).2⟩
  case isFalse => exact .inl h

/-! Where an operation stands with respect to its stores -/

/-- The phases in which the operation in progress has stored nothing yet; only these can end in an error. -/
def Phase.beforeStores : Phase → Bool
  | .eCheck | .dCheck | .dHdr | .dLenchk => true
  | .idle | .eEmbed | .eCopy | .dPayload => false

/-- Before the first store a step stores nothing; it can raise an error, and is then back in IDLE (R206). -/
theorem engineStep_beforeStores {s t : State} (hp : s.phase.beforeStores = true) (h : engineStep s = .next t) :
    (∀ m, t.mem m = s.mem m) ∧ t.outLen = s.outLen ∧ (t.status = s.status ∨ t.phase = .idle) := by
  cases hphase : s.phase with
  | idle | eEmbed | eCopy | dPayload => simp [hphase, Phase.beforeStores] at hp
  | eCheck =>
    rw [engineStep_eCheck hphase] at h
    split at h <;> cases h <;> simp
  | dCheck =>
    rw [engineStep_dCheck hphase] at h
    split at h <;> cases h <;> simp
  | dHdr =>
    simp only [engineStep, hphase, stepDHdr] at h
    split at h
    case isTrue =>
      obtain ⟨-, h⟩ := readByte_next h
      cases h
      exact ⟨fun _ => rfl, rfl, .inl rfl⟩
    case isFalse => cases h; simp
  | dLenchk =>
    rw [engineStep_dLenchk hphase] at h
    split at h
    case isTrue => cases h; simp
    case isFalse => split at h <;> cases h <;> simp

/-- From the first store on a step leaves ERR as it is, and no later phase comes before the stores again. -/
theorem engineStep_afterChecks {s t : State} (hidle : s.phase ≠ .idle) (hp : s.phase.beforeStores = false)
    (h : engineStep s = .next t) : t.status.err = s.status.err ∧ t.phase.beforeStores = false := by
  cases hphase : s.phase with
  | idle => exact absurd hphase hidle
  | eCheck | dCheck | dHdr | dLenchk => simp [hphase, Phase.beforeStores] at hp
  | eEmbed =>
    simp only [engineStep, hphase, stepEEmbed] at h
    split at h
    case isTrue =>
      obtain ⟨b, h⟩ := embedBit_next h
      obtain ⟨-, h⟩ := readByte_next h
      obtain ⟨-, h⟩ := writeByte_next h
      cases h; simp [hp]
    case isFalse => cases h; simp [Phase.beforeStores]
  | eCopy =>
    simp only [engineStep, hphase, stepECopy] at h
    split at h
    case isTrue =>
      obtain ⟨-, h⟩ := readByte_next h
      obtain ⟨-, h⟩ := writeByte_next h
      cases h; simp [hp]
    case isFalse => cases h; simp [Status.finished, Phase.beforeStores]
  | dPayload =>
    simp only [engineStep, hphase, stepDPayload] at h
    split at h
    case isTrue =>
      obtain ⟨-, h⟩ := readByte_next h
      obtain h | ⟨x, h⟩ := storeChar_next h <;> cases h <;> simp [hp]
    case isFalse => cases h; simp [Status.finished, Phase.beforeStores]

/-! The invariant of an accepted operation -/

/-- What holds of every state `s` of an operation that was accepted with the memories of `base`: with an error reported
it is over, and the memories and OUT_LEN are as at acceptance wherever an error is reported or can still be raised. -/
structure ErrorsStoreNothing (base s : State) : Prop where
  errIdle : s.status.err = true → s.phase = .idle
  mems : s.status.err = true ∨ s.phase.beforeStores = true → ∀ m, s.mem m = base.mem m
  outLen : s.status.err = true ∨ s.phase.beforeStores = true → s.outLen = 0#32

theorem ErrorsStoreNothing.engine_keeps {base s t : State} (hs : ErrorsStoreNothing base s)
    (h : engineStep s = .next t) : ErrorsStoreNothing base t := by
  by_cases hidle : s.phase = .idle
  · cases (engineStep_idle hidle).symm.trans h
    exact hs
  · have herr : s.status.err ≠ true := mt hs.errIdle hidle
    cases hp : s.phase.beforeStores with
    | true =>
      obtain ⟨hmem, hout, hend⟩ := engineStep_beforeStores hp h
      exact {
        errIdle := fun he => hend.resolve_left fun hst => herr (hst ▸ he)
        mems := fun _ m => (hmem m).trans (hs.mems (.inr hp) m)
        outLen := fun _ => hout.trans (hs.outLen (.inr hp)) }
    | false =>
      obtain ⟨hkeep, hpast⟩ := engineStep_afterChecks hidle hp h
      have hnever : ¬ (t.status.err = true ∨ t.phase.beforeStores = true) := by simp [hkeep, hpast, herr]
      exact ⟨fun he => absurd (.inl he) hnever, fun he => absurd he hnever, fun he => absurd he hnever⟩

theorem ErrorsStoreNothing.acceptEncode (s : State) : ErrorsStoreNothing s s.acceptEncode :=
  ⟨nofun, fun _ => s.acceptEncode_mem, fun _ => rfl⟩

theorem ErrorsStoreNothing.acceptDecode (s : State) : ErrorsStoreNothing s s.acceptDecode :=
  ⟨nofun, fun _ => s.acceptDecode_mem, fun _ => rfl⟩

/-! Runs in which only the engine moves -/

theorem runs_succ_next {n : Nat} {s u : State} (h : runs (n + 1) s = .next u) :
    ∃ t, step s = .next t ∧ runs n t = .next u := by
  rw [runs] at h
  cases hstep : step s with
  | next t => exact ⟨t, rfl, by rwa [hstep] at h⟩
  | fault r => rw [hstep] at h; cases h
  | refused r => rw [hstep] at h; cases h

/-- What every engine step keeps holds at the end of a run in which no turn is left. -/
theorem runs_alone_keeps {P : State → Prop} (hP : ∀ v w, P v → engineStep v = .next w → P w) {n : Nat} {s u : State}
    (hs : P s) (ht : s.turns = []) (h : runs n s = .next u) : P u := by
  induction n generalizing s with
  | zero => cases h; exact hs
  | succ n ih =>
    obtain ⟨t, hstep, hrun⟩ := runs_succ_next h
    rw [step_alone ht] at hstep
    obtain ⟨-, -, -, -, -, -, -, -, -, hturns, -, -⟩ := engineStep_unchanged hstep
    exact ih (hP s t hs hstep) (hturns.trans ht) hrun

/-- Settles O56: a command that is not accepted leaves the block idle, so the run stays where the command left it; an
accepted one starts a run that keeps `ErrorsStoreNothing`. -/
theorem errorsLeaveMemoriesAlone : Obligations.ErrorsLeaveMemoriesAlone := by
  intro i s t u n hi hs hexec hrun herr
  obtain ⟨hbusy, hturns⟩ := hs
  have hidle : s.phase = .idle := by
    by_contra hne
    simp [hi.busyPhase.2 hne] at hbusy
  have accepted {v : State} (hv : ErrorsStoreNothing s v) (hvt : v.turns = []) (hvrun : runs n v = .next u) :
      (∀ m, u.mem m = s.mem m) ∧ (i ≠ .nop → u.outLen = 0#32) := by
    have hu := runs_alone_keeps (fun _ _ h => h.engine_keeps) hv hvt hvrun
    exact ⟨hu.mems (.inl herr), fun _ => hu.outLen (.inl herr)⟩
  have rejected (c : ErrCode) (hrej : runs n (s.reject c) = .next u) :
      (∀ m, u.mem m = s.mem m) ∧ (i ≠ .nop → u.outLen = 0#32) := by
    cases (runs_idle (s := s.reject c) hidle hturns n).symm.trans hrej
    exact ⟨s.reject_mem c, fun _ => rfl⟩
  rcases exec_cases i s with ⟨h, hnop⟩ | ⟨h, -⟩ | ⟨h, -⟩ | ⟨h, -⟩ | ⟨h, -⟩ <;> cases h.symm.trans hexec
  · cases (runs_idle hidle hturns n).symm.trans hrun
    exact ⟨fun _ => rfl, fun hne => by simp [hne, hbusy] at hnop⟩
  · exact rejected _ hrun
  · exact rejected _ hrun
  · exact accepted (.acceptEncode s) hturns hrun
  · exact accepted (.acceptDecode s) hturns hrun

end Sys2Proof.Machine
end

section
/-! PROOFS. R92, R93, R98, R99: the frame bits as quotients, and the decoder's readings as sums of place values. -/

namespace Sys2Proof.Machine

/-- Settles O28: before position 32 it is a length bit, from there on a bit of its character. -/
theorem frameBitFormula : Obligations.FrameBitFormula := by
  intro l msg i _ _
  unfold frameBit
  split
  case isTrue => exact lengthBit_eq l i
  case isFalse => exact charBit_eq _ _

/-- Reading one bit more doubles every place value read so far, so the first bit ends with the largest one. -/
theorem bitsValue_eq_sum (b : Nat → Bool) (n : Nat) :
    bitsValue b n = ∑ i ∈ Finset.range n, (b i).toNat * 2 ^ (n - 1 - i) := by
  induction n with
  | zero => rfl
  | succ n ih =>
    have hdouble : 2 * bitsValue b n = ∑ i ∈ Finset.range n, (b i).toNat * 2 ^ (n - i) := by
      rw [ih, Finset.mul_sum]
      refine Finset.sum_congr rfl fun i hi => ?_
      have hi : i < n := Finset.mem_range.mp hi
      rw [show n - i = n - 1 - i + 1 by omega, Nat.pow_succ]
      ring
    rw [bitsValue_succ, Finset.sum_range_succ, hdouble]
    simp

/-- R98: an image whose low bits are those of `n`, the most significant first, declares `n`; so no length is out of
reach. -/
theorem exists_declaredLength_eq {n : Nat} (hn : n < 2 ^ 32) : ∃ pix : Nat → Byte, declaredLength pix = n := by
  refine ⟨fun i => setlsb 0#8 (n.testBit (32 - 1 - i)), ?_⟩
  simp only [declaredLength, lsb_setlsb]
  rw [bitsValue_testBit, Nat.mod_eq_of_lt hn]

/-- R99: eight bits fit in a character, so it holds their value with nothing dropped. -/
theorem messageChar_toNat (pix : Nat → Byte) (j : Nat) :
    (messageChar pix j).toNat = bitsValue (fun k => lsb (pix (32 + 8 * j + k))) 8 := by
  rw [messageChar, BitVec.toNat_ofNat, Nat.mod_eq_of_lt (bitsValue_lt _ 8)]

/-- Settles O29: both readings are values of bits read most significant first, of 32 and of 8 bits. -/
theorem decoderSums : Obligations.DecoderSums := fun pix =>
  ⟨bitsValue_eq_sum _ 32, bitsValue_lt _ 32, fun _ hn => exists_declaredLength_eq hn,
    fun j => (messageChar_toNat pix j).trans (bitsValue_eq_sum _ 8)⟩

end Sys2Proof.Machine
end

section
/-! PROOFS. R123, R124, R126, R205: the three phases of ENCODE, one engine step each. -/

namespace Sys2Proof.Machine

theorem BlockInv.mem_wf {s : State} (hi : BlockInv s) (m : MemId) : Memory.wf (s.mem m) = true := by
  have hgood := hi.memGood m
  rw [Memory.good, Bool.and_eq_true] at hgood
  exact hgood.1

/-- R35: IDX has one bit more than CAP, so no step of it below CAP wraps. -/
theorem State.idx_add_one_toNat {s : State} (h : s.idx.toNat < s.cap.toNat) :
    (s.idx + 1#33).toNat = s.idx.toNat + 1 := by
  have hcap := s.cap.isLt
  rw [BitVec.toNat_add, BitVec.toNat_ofNat]
  omega

/-- Settles O32: the step is the two-way choice of R123, and `raise` and `goto` write the fields named. -/
theorem capacityCheckStep : Obligations.CapacityCheckStep := fun _ hp => engineStep_eCheck hp

/-- Settles O33: below FLEN the step is one store and one advance; FLEN is at least 32 as a frame length (R91). -/
theorem embedStep : Obligations.EmbedStep := by
  intro s hi hp
  obtain ⟨hidx, hcap⟩ := hi.embedBounds hp
  have hflen : s.flen.toNat = 32 + 8 * s.llen.toNat := hi.encodeFlen (by rw [hp]; rfl)
  refine ⟨fun hlt => ?_, by omega, fun hge => ?_⟩
  · exact ⟨_, engineStep_eEmbed_write hi hp hlt, State.idx_add_one_toNat (by omega),
      fun a => Memory.read_write (hi.mem_wf .outPix) _ a _, rfl⟩
  · exact ⟨by omega, engineStep_eEmbed_end hp (by omega)⟩

/-- Settles O34: below CAP the step is one store and one advance; at CAP it is `finish_ok`. -/
theorem copyStep : Obligations.CopyStep := by
  intro s hi hp
  obtain ⟨-, -, hidx⟩ := hi.copyBounds hp
  refine ⟨fun hlt => ?_, fun hge => ?_⟩
  · exact ⟨_, engineStep_eCopy_write hi hp hlt, State.idx_add_one_toNat hlt,
      fun a => Memory.read_write (hi.mem_wf .outPix) _ a _, rfl⟩
  · exact ⟨by omega, engineStep_eCopy_end hp (by omega)⟩

end Sys2Proof.Machine
end

section
/-! PROOFS. R183: a block that takes the next ENCODE or DECODE, and how its run ends. -/

namespace Sys2Proof.Machine

/-- A block in which an ENCODE or DECODE is accepted and then runs with no other move in between. -/
structure State.Ready (s : State) : Prop where
  inv : BlockInv s
  notBusy : s.status.busy = false
  noTurns : s.turns = []
  fits : s.requestedCap ≤ s.cfg.pixDepth

theorem BlockInv.ready {s : State} (hi : BlockInv s) (ha : s.idleAlone) (hc : s.requestedCap ≤ s.cfg.pixDepth) :
    s.Ready := ⟨hi, ha.1, ha.2, hc⟩

theorem State.Ready.cap_lt {s : State} (hr : s.Ready) : s.requestedCap < 2 ^ 32 := by
  have hlegal := ((Config.legal_iff _).1 hr.inv.cfgLegal).1
  have hfits := hr.fits
  omega

theorem State.Ready.exec_encode {s : State} (hr : s.Ready) : exec .encode s = .next s.acceptEncode := by
  simp [exec, execEncode, whenNotBusy, withLegalConfig, hr.notBusy, hr.fits]

theorem State.Ready.exec_decode {s : State} (hr : s.Ready) : exec .decode s = .next s.acceptDecode := by
  simp [exec, execDecode, whenNotBusy, withLegalConfig, hr.notBusy, hr.fits]

/-- CAP is exact: an image that fits PIX fits the register (R31, R182). -/
theorem State.Ready.cap_toNat {s : State} (hr : s.Ready) : (BitVec.ofNat 32 s.requestedCap).toNat = s.requestedCap := by
  rw [BitVec.toNat_ofNat, Nat.mod_eq_of_lt hr.cap_lt]

/-- FLEN is exact for every MSG_LEN: 36 bits are enough (R32). -/
theorem flen_toNat (l : Word) : (BitVec.ofNat 36 (frameLength l.toNat)).toNat = frameLength l.toNat := by
  have hl := l.isLt
  rw [BitVec.toNat_ofNat, Nat.mod_eq_of_lt]
  unfold frameLength
  omega

/-- An index that CAP bounds fits IDX (R35). -/
theorem State.Ready.idx_toNat {s : State} (hr : s.Ready) {i : Nat} (h : i ≤ s.requestedCap) :
    (BitVec.ofNat 33 i).toNat = i := by
  have hcap := hr.cap_lt
  rw [BitVec.toNat_ofNat, Nat.mod_eq_of_lt (by omega)]

theorem ofNat_idx_succ (i : Nat) : BitVec.ofNat 33 i + 1#33 = BitVec.ofNat 33 (i + 1) := by
  rw [BitVec.ofNat_add]

/-- An engine step either ends the operation, with BUSY 0 and PHASE IDLE, or leaves STATUS alone and goes to IDLE only
from IDLE. -/
theorem engineStep_ends_or_continues {s t : State} (h : engineStep s = .next t) :
    (t.status.busy = false ∧ t.phase = .idle) ∨ (t.status = s.status ∧ (t.phase = .idle ↔ s.phase = .idle)) := by
  cases hphase : s.phase with
  | idle =>
    cases (engineStep_idle hphase).symm.trans h
    exact .inr ⟨rfl, by rw [hphase]⟩
  | eCheck =>
    rw [engineStep_eCheck hphase] at h
    split at h <;> cases h
    · exact .inl ⟨rfl, rfl⟩
    · exact .inr ⟨rfl, by simp⟩
  | dCheck =>
    rw [engineStep_dCheck hphase] at h
    split at h <;> cases h
    · exact .inl ⟨rfl, rfl⟩
    · exact .inr ⟨rfl, by simp⟩
  | dLenchk =>
    rw [engineStep_dLenchk hphase] at h
    split at h
    case isTrue => cases h; exact .inl ⟨rfl, rfl⟩
    case isFalse =>
      split at h <;> cases h
      · exact .inl ⟨rfl, rfl⟩
      · exact .inr ⟨rfl, by simp⟩
  | dHdr =>
    simp only [engineStep, hphase, stepDHdr] at h
    split at h
    case isTrue =>
      obtain ⟨-, h⟩ := readByte_next h
      cases h; exact .inr ⟨rfl, by simp⟩
    case isFalse => cases h; exact .inr ⟨rfl, by simp⟩
  | eEmbed =>
    simp only [engineStep, hphase, stepEEmbed] at h
    split at h
    case isTrue =>
      obtain ⟨b, h⟩ := embedBit_next h
      obtain ⟨-, h⟩ := readByte_next h
      obtain ⟨-, h⟩ := writeByte_next h
      cases h; exact .inr ⟨rfl, by simp [hphase]⟩
    case isFalse => cases h; exact .inr ⟨rfl, by simp⟩
  | eCopy =>
    simp only [engineStep, hphase, stepECopy] at h
    split at h
    case isTrue =>
      obtain ⟨-, h⟩ := readByte_next h
      obtain ⟨-, h⟩ := writeByte_next h
      cases h; exact .inr ⟨rfl, by simp [hphase]⟩
    case isFalse => cases h; exact .inl ⟨rfl, rfl⟩
  | dPayload =>
    simp only [engineStep, hphase, stepDPayload] at h
    split at h
    case isTrue =>
      obtain ⟨-, h⟩ := readByte_next h
      obtain h | ⟨x, h⟩ := storeChar_next h <;> cases h <;> exact .inr ⟨by simp, by simp [hphase]⟩
    case isFalse => cases h; exact .inl ⟨rfl, rfl⟩

theorem engineStep_turns {s t : State} (h : engineStep s = .next t) : t.turns = s.turns := by
  obtain ⟨-, -, -, -, -, -, -, -, -, hturns, -, -⟩ := engineStep_unchanged h
  exact hturns

/-- R48 (a), kept by every engine step: with BUSY 0 the engine is idle. -/
theorem engineStep_keeps_idle {s t : State} (hs : s.status.busy = false → s.phase = .idle)
    (h : engineStep s = .next t) : t.status.busy = false → t.phase = .idle := by
  obtain ⟨-, hidle⟩ | ⟨hstatus, hphase⟩ := engineStep_ends_or_continues h
  · exact fun _ => hidle
  · exact fun hb => hphase.2 (hs (hstatus ▸ hb))

theorem runs_alone_turns {n : Nat} {s u : State} (ht : s.turns = []) (h : runs n s = .next u) : u.turns = [] :=
  runs_alone_keeps (P := fun v => v.turns = []) (fun _ _ hv hstep => (engineStep_turns hstep).trans hv) ht ht h

/-- Once a run of the engine alone has come to BUSY 0, more moves change nothing. -/
theorem runs_alone_stays {s u : State} {n : Nat} (ht : s.turns = []) (hs : s.status.busy = false → s.phase = .idle)
    (hu : runs n s = .next u) (hbusy : u.status.busy = false) (k : Nat) : runs (n + k) s = .next u := by
  have hidle : u.status.busy = false → u.phase = .idle :=
    runs_alone_keeps (P := fun v => v.status.busy = false → v.phase = .idle)
      (fun _ _ => engineStep_keeps_idle) hs ht hu
  rw [runs_add hu k, runs_idle (hidle hbusy) (runs_alone_turns ht hu)]

/-- So it has at most one end: two runs from one state that come to BUSY 0 come to the same state, however many moves
each takes. -/
theorem runs_end_unique {s u v : State} {m n : Nat} (ht : s.turns = []) (hs : s.status.busy = false → s.phase = .idle)
    (hu : runs m s = .next u) (hv : runs n s = .next v) (hub : u.status.busy = false) (hvb : v.status.busy = false) :
    u = v := by
  have hboth := runs_alone_stays ht hs hu hub n
  rw [Nat.add_comm, runs_alone_stays ht hs hv hvb m] at hboth
  exact (Host.Outcome.next.inj hboth).symm

end Sys2Proof.Machine
end

section
/-! PROOFS. R121, R127: the run of a successful ENCODE, state by state. -/

namespace Sys2Proof.Machine

theorem encodeImage_fits {w h l : Nat} (hf : frameLength l ≤ capacityOf w h) (msg pix : Nat → Byte) :
    encodeImage w h l msg pix = .ok ((List.range (capacityOf w h)).map (encodedSample l msg pix)) :=
  if_neg (Nat.not_lt.2 hf)

theorem encodeImage_tooLong {w h l : Nat} (hf : capacityOf w h < frameLength l) (msg pix : Nat → Byte) :
    encodeImage w h l msg pix = .error .capacityError := if_pos hf

/-- Sample `i` of the image that ENCODE makes of the operands in `s` (R121). -/
def State.encodedAt (s : State) : Nat → Byte :=
  encodedSample s.msgLen.toNat (Memory.read s.msgIn) (Memory.read s.pix)

theorem State.encodedAt_frame {s : State} {i : Nat} (h : i < frameLength s.msgLen.toNat) :
    s.encodedAt i = setlsb (Memory.read s.pix i) (frameBit s.msgLen.toNat (Memory.read s.msgIn) i) := if_pos h

theorem State.encodedAt_rest {s : State} {i : Nat} (h : frameLength s.msgLen.toNat ≤ i) :
    s.encodedAt i = Memory.read s.pix i := if_neg (Nat.not_lt.2 h)

/-- The ENCODE accepted in `s`, in phase `p` with the samples below `i` written (R127). -/
def State.encodingAt (s : State) (p : Phase) (i : Nat) : State :=
  { s.acceptEncode with
    phase := p
    idx := BitVec.ofNat 33 i
    outPix := Memory.fill s.encodedAt i s.outPix }

variable {s : State}

theorem State.Ready.encodingAt_inv (hr : s.Ready) {p : Phase} {i : Nat} (hi : i ≤ s.requestedCap)
    (hf : frameLength s.msgLen.toNat ≤ s.requestedCap)
    (hp : p = .eEmbed ∧ i ≤ frameLength s.msgLen.toNat ∨ p = .eCopy ∧ frameLength s.msgLen.toNat ≤ i) :
    BlockInv (s.encodingAt p i) := by
  have hcap := hr.cap_toNat
  have hflen := flen_toNat s.msgLen
  have hidx := hr.idx_toNat hi
  have hfits := hr.fits
  constructor
  case cfgLegal => exact hr.inv.cfgLegal
  case memGood =>
    have hgood := hr.inv.memGood
    intro m
    cases m with
    | pix => exact hgood .pix
    | msgIn => exact hgood .msgIn
    | msgOut => exact hgood .msgOut
    | outPix =>
      have hout := hgood .outPix
      rw [Memory.good, Bool.and_eq_true] at hout ⊢
      exact ⟨Memory.wf_fill hout.1 _ i, Memory.below_fill hout.2 _ (hi.trans hfits)⟩
  case busyCap => exact fun _ => hcap.trans_le hfits
  case encodeFlen => exact fun _ => hflen
  case embedBounds | copyBounds =>
    obtain ⟨rfl, hpos⟩ | ⟨rfl, hpos⟩ := hp <;>
      simp only [encodingAt, State.acceptEncode_cap, State.acceptEncode_flen, hcap, hflen, hidx] <;> simp [*]
  all_goals
    obtain ⟨rfl, hpos⟩ | ⟨rfl, hpos⟩ := hp <;>
      simp [encodingAt, Status.accepted, Status.clear, Phase.ofEncode, Phase.ofDecode]

/-- R124: each step of E_EMBED writes one more sample of the frame. -/
theorem State.Ready.runs_embed (hr : s.Ready) (hf : frameLength s.msgLen.toNat ≤ s.requestedCap) {i : Nat}
    (hi : i ≤ frameLength s.msgLen.toNat) : runs (i + 1) s.acceptEncode = .next (s.encodingAt .eEmbed i) := by
  have hcap := hr.cap_toNat
  have hflen := flen_toNat s.msgLen
  induction i with
  | zero =>
    refine runs_engine (runs_zero _) hr.noTurns ?_
    rw [engineStep_eCheck rfl, if_neg (by simp only [State.acceptEncode_cap, State.acceptEncode_flen]; omega)]
    rfl
  | succ i ih =>
    have hidx : (s.encodingAt .eEmbed i).idx.toNat = i := hr.idx_toNat (by omega)
    refine runs_engine (ih (by omega)) hr.noTurns ?_
    rw [engineStep_eEmbed_write (hr.encodingAt_inv (by omega) hf (.inl ⟨rfl, by omega⟩)) rfl
      (by rw [hidx]; exact hi.trans_eq hflen.symm), hidx]
    simp only [State.encodingAt, ofNat_idx_succ, Memory.fill, State.encodedAt_frame hi]
    rfl

/-- R126: each step of E_COPY writes one more sample after the frame. -/
theorem State.Ready.runs_copy (hr : s.Ready) {i : Nat} (hf : frameLength s.msgLen.toNat ≤ i)
    (hi : i ≤ s.requestedCap) : runs (i + 2) s.acceptEncode = .next (s.encodingAt .eCopy i) := by
  have hcap := hr.cap_toNat
  have hflen := flen_toNat s.msgLen
  induction i, hf using Nat.le_induction with
  | base =>
    have hidx : (s.encodingAt .eEmbed (frameLength s.msgLen.toNat)).idx.toNat = _ := hr.idx_toNat hi
    exact runs_engine (hr.runs_embed hi le_rfl) hr.noTurns
      (engineStep_eEmbed_end rfl (by rw [hidx]; exact hflen.le))
  | succ i hf ih =>
    have hidx : (s.encodingAt .eCopy i).idx.toNat = i := hr.idx_toNat (by omega)
    refine runs_engine (ih (by omega)) hr.noTurns ?_
    rw [engineStep_eCopy_write (hr.encodingAt_inv (by omega) (by omega) (.inr ⟨rfl, hf⟩)) rfl
      (by rw [hidx]; exact hi.trans_eq hcap.symm), hidx]
    simp only [State.encodingAt, ofNat_idx_succ, Memory.fill, State.encodedAt_rest hf]
    rfl

/-- The state a successful ENCODE ends in (R128, R205). -/
def State.encoded (s : State) : State := (s.encodingAt .eCopy s.requestedCap).finishOk

/-- R127: a successful ENCODE takes CAP + 3 engine steps. -/
theorem State.Ready.runs_encode (hr : s.Ready) (hf : frameLength s.msgLen.toNat ≤ s.requestedCap) :
    runs (s.requestedCap + 3) s.acceptEncode = .next s.encoded := by
  have hidx : (s.encodingAt .eCopy s.requestedCap).idx.toNat = _ := hr.idx_toNat le_rfl
  exact runs_engine (hr.runs_copy hf le_rfl) hr.noTurns
    (engineStep_eCopy_end rfl (by rw [hidx]; exact hr.cap_toNat.le))

/-- R123: an ENCODE whose frame does not fit takes one engine step and ends with CapacityError. -/
theorem State.Ready.runs_encode_tooLong (hr : s.Ready) (hf : s.requestedCap < frameLength s.msgLen.toNat) :
    runs 1 s.acceptEncode = .next (s.acceptEncode.raise .capacityError .none) := by
  refine runs_engine (runs_zero _) hr.noTurns ?_
  rw [engineStep_eCheck rfl, if_pos]
  exact hr.cap_toNat.trans_lt (hf.trans_eq (flen_toNat s.msgLen).symm)

/-- R121: below CAP OUT_PIX holds the image of the function, from CAP on what it held before. -/
theorem State.Ready.encoded_outPix (hr : s.Ready) (a : Nat) :
    Memory.read s.encoded.outPix a = if a < s.requestedCap then s.encodedAt a else Memory.read s.outPix a :=
  Memory.read_fill (hr.inv.mem_wf .outPix) _ _ a

/-- Settles O46: R123 decides between the two runs, and each ends in the outcome of R121 for its case. -/
theorem encodeRunsToItsFunction : Obligations.EncodeRunsToItsFunction := by
  intro s hi ha hc
  have hr := hi.ready ha hc
  refine ⟨_, hr.exec_encode, ?_⟩
  rcases Nat.lt_or_ge s.requestedCap (frameLength s.msgLen.toNat) with hf | hf
  case inl =>
    rw [encodeImage_tooLong hf]
    exact ⟨rfl, hr.runs_encode_tooLong hf⟩
  case inr =>
    rw [encodeImage_fits hf]
    refine ⟨_, hr.runs_encode hf, ?_, fun a hge => ?_, hr.idx_toNat le_rfl, rfl⟩
    · refine List.map_congr_left fun a hmem => ?_
      rw [hr.encoded_outPix, if_pos (List.mem_range.1 hmem)]
      rfl
    · rw [hr.encoded_outPix, if_neg (Nat.not_lt.2 hge)]

/-- However many moves it takes, an ENCODE that ends without error has ended in the state of R128. -/
theorem State.Ready.encode_success {t u : State} {n : Nat} (hr : s.Ready) (hexec : exec .encode s = .next t)
    (hrun : runs n t = .next u) (hbusy : u.status.busy = false) (herr : u.status.err = false) : u = s.encoded := by
  cases hr.exec_encode.symm.trans hexec
  have ends {v : State} {m : Nat} (hv : runs m s.acceptEncode = .next v) (hvb : v.status.busy = false) : u = v :=
    runs_end_unique (s := s.acceptEncode) hr.noTurns nofun hrun hv hbusy hvb
  rcases Nat.lt_or_ge s.requestedCap (frameLength s.msgLen.toNat) with hf | hf
  case inl =>
    cases ends (hr.runs_encode_tooLong hf) rfl
    cases herr
  case inr => exact ends (hr.runs_encode hf) rfl

/-- Settles O48: the run ended in the state of R128, whose samples are those of R121; in the frame they come from
`setlsb`, after it they are copies. -/
theorem encodeChangesOnlyLowBits : Obligations.EncodeChangesOnlyLowBits := by
  intro s t u n hi ha hc hexec hrun hbusy herr i hcap
  have hr := hi.ready ha hc
  rw [hr.encode_success hexec hrun hbusy herr, hr.encoded_outPix, if_pos hcap]
  rcases Nat.lt_or_ge i (frameLength s.msgLen.toNat) with hf | hf
  case inl =>
    rw [State.encodedAt_frame hf]
    exact ⟨setlsb_upper _ _, fun _ => lsb_setlsb _ _, fun hge => absurd hf (Nat.not_lt.2 hge)⟩
  case inr =>
    rw [State.encodedAt_rest hf]
    exact ⟨rfl, fun hlt => absurd hlt (Nat.not_lt.2 hf), fun _ => rfl⟩

end Sys2Proof.Machine
end

section
/-! PROOFS. R152, R157: the run of a successful DECODE, state by state. -/

namespace Sys2Proof.Machine

/-- Reading one bit into a register of `w` bits is reading it into the value and cutting once (R154, R156). -/
theorem shiftIn_cut (w n : Nat) (b : Bool) :
    BitVec.ofNat w (shiftIn (BitVec.ofNat w n).toNat b) = BitVec.ofNat w (shiftIn n b) := by
  apply BitVec.eq_of_toNat_eq
  simp only [BitVec.toNat_ofNat, shiftIn]
  rw [Nat.add_mod, Nat.mul_mod, Nat.mod_mod, ← Nat.mul_mod, ← Nat.add_mod]

/-- R99: of the payload bits up to the end of character `j`, a byte holds the last 8, which are that character. -/
theorem ofNat_bitsValue_eq_messageChar (pix : Nat → Byte) (j : Nat) :
    BitVec.ofNat 8 (bitsValue (fun k => lsb (pix (32 + k))) (8 * j + 8)) = messageChar pix j := by
  apply BitVec.eq_of_toNat_eq
  rw [messageChar_toNat, BitVec.toNat_ofNat, bitsValue_mod]
  simp only [Nat.add_assoc]

/-- The DECODE accepted in `s`, in phase `p` with the bits below `i` read (R157): PLEN has taken the first 32, SHREG the
later ones, and each character is stored with its last bit. -/
def State.decodingAt (s : State) (p : Phase) (i : Nat) : State :=
  { s.acceptDecode with
    phase := p
    idx := BitVec.ofNat 33 i
    plen := BitVec.ofNat 32 (bitsValue (fun k => lsb (Memory.read s.pix k)) (min i 32))
    shreg := BitVec.ofNat 8 (bitsValue (fun k => lsb (Memory.read s.pix (32 + k))) (i - 32))
    msgOut := Memory.fill (messageChar (Memory.read s.pix)) ((i - 32) / 8) s.msgOut }

variable {s : State}

theorem State.decodingAt_plen_toNat (p : Phase) (i : Nat) :
    (s.decodingAt p i).plen.toNat = bitsValue (fun k => lsb (Memory.read s.pix k)) (min i 32) := by
  refine (BitVec.toNat_ofNat _ _).trans (Nat.mod_eq_of_lt ((bitsValue_lt _ _).trans_le ?_))
  exact Nat.pow_le_pow_right (by decide) (Nat.min_le_right i 32)

theorem State.decodingAt_plen_declared (p : Phase) {i : Nat} (hi : 32 ≤ i) :
    (s.decodingAt p i).plen.toNat = declaredLength (Memory.read s.pix) := by
  rw [State.decodingAt_plen_toNat, Nat.min_eq_right hi]
  rfl

/-- R156: SHREG takes payload bit `i - 32`, and what it then holds depends on the bits read alone. -/
theorem State.decodingAt_shreg_succ (p : Phase) {i : Nat} (hi : 32 ≤ i) :
    BitVec.ofNat 8 (shiftIn (s.decodingAt p i).shreg.toNat (lsb (Memory.read s.pix i))) =
      (s.decodingAt p (i + 1)).shreg := by
  refine (shiftIn_cut 8 _ _).trans ?_
  simp only [State.decodingAt, show i + 1 - 32 = i - 32 + 1 by omega, bitsValue, show 32 + (i - 32) = i by omega]

/-- The characters of a frame that fits PIX have their places in MSG_OUT (R70, R160). -/
theorem State.Ready.chars_le_msgDepth (hr : s.Ready) {n : Nat} (hn : 32 + n ≤ s.requestedCap) :
    n / 8 ≤ s.cfg.msgDepth := by
  have hfits := hr.fits
  have hlegal := ((Config.legal_iff _).1 hr.inv.cfgLegal).2 (by omega)
  omega

/-- DECODE's operands hold a whole message: its declared length fits the image and is a number of bytes (R153, R155). -/
structure State.HoldsMessage (s : State) : Prop where
  fits : 32 + declaredLength (Memory.read s.pix) ≤ s.requestedCap
  bytes : declaredLength (Memory.read s.pix) % 8 = 0

theorem State.Ready.decodingAt_inv (hr : s.Ready) (hm : s.HoldsMessage) {p : Phase} {i : Nat}
    (hp : p = .dHdr ∧ i ≤ 32 ∨ p = .dPayload ∧ 32 ≤ i ∧ i ≤ 32 + declaredLength (Memory.read s.pix)) :
    BlockInv (s.decodingAt p i) := by
  have hcap := hr.cap_toNat
  have hfits := hr.fits
  have hmfits := hm.fits
  have hi : i ≤ s.requestedCap := by omega
  have hidx := hr.idx_toNat hi
  constructor
  case cfgLegal => exact hr.inv.cfgLegal
  case memGood =>
    have hgood := hr.inv.memGood
    intro m
    cases m with
    | pix => exact hgood .pix
    | msgIn => exact hgood .msgIn
    | outPix => exact hgood .outPix
    | msgOut =>
      have hout := hgood .msgOut
      rw [Memory.good, Bool.and_eq_true] at hout ⊢
      exact ⟨Memory.wf_fill hout.1 _ _, Memory.below_fill hout.2 _ (hr.chars_le_msgDepth (by omega))⟩
  case busyCap => exact fun _ => hcap.trans_le hfits
  case hdrBounds =>
    intro hphase
    obtain ⟨-, h32⟩ | ⟨rfl, -⟩ := hp
    · rw [State.decodingAt_plen_toNat, Nat.min_eq_left h32,
        show (s.decodingAt p i).idx.toNat = i from hidx,
        show (s.decodingAt p i).cap.toNat = s.requestedCap from hcap]
      exact ⟨by omega, h32, bitsValue_lt _ i⟩
    · cases hphase
  case payloadBounds =>
    intro hphase
    obtain ⟨rfl, -⟩ | ⟨-, hlo, hhi⟩ := hp
    · cases hphase
    · rw [State.decodingAt_plen_declared p hlo,
        show (s.decodingAt p i).idx.toNat = i from hidx,
        show (s.decodingAt p i).cap.toNat = s.requestedCap from hcap]
      exact ⟨hmfits, hm.bytes, hlo, hhi⟩
  all_goals
    obtain ⟨rfl, -⟩ | ⟨rfl, -⟩ := hp <;>
      simp [decodingAt, Status.accepted, Status.clear, Phase.ofEncode, Phase.ofDecode]

/-- R156: the payload step that completes a character stores it, and every other one leaves MSG_OUT alone. -/
theorem State.Ready.payloadMsgOut_decodingAt (hr : s.Ready) {i : Nat} (h32 : 32 ≤ i) (hi : i ≤ s.requestedCap) :
    payloadMsgOut (s.decodingAt .dPayload i) =
      Memory.fill (messageChar (Memory.read s.pix)) ((i + 1 - 32) / 8) s.msgOut := by
  have hidx : (s.decodingAt .dPayload i).idx.toNat = i := hr.idx_toNat hi
  rw [payloadMsgOut, hidx]
  split
  case isTrue h7 =>
    have hchar : (s.decodingAt .dPayload (i + 1)).shreg = messageChar (Memory.read s.pix) ((i - 32) / 8) := by
      rw [← ofNat_bitsValue_eq_messageChar, show 8 * ((i - 32) / 8) + 8 = i + 1 - 32 by omega]
      rfl
    rw [show (i + 1 - 32) / 8 = (i - 32) / 8 + 1 by omega, Memory.fill, ← hchar, ← State.decodingAt_shreg_succ _ h32]
    rfl
  case isFalse h7 => rw [show (i + 1 - 32) / 8 = (i - 32) / 8 by omega]; rfl

/-- R154: each step of D_HDR reads one more bit of the length. -/
theorem State.Ready.runs_header (hr : s.Ready) (hm : s.HoldsMessage) {i : Nat} (hi : i ≤ 32) :
    runs (i + 1) s.acceptDecode = .next (s.decodingAt .dHdr i) := by
  have hmfits := hm.fits
  induction i with
  | zero =>
    refine runs_engine (runs_zero _) hr.noTurns ?_
    rw [engineStep_dCheck rfl, if_neg (by rw [State.acceptDecode_cap, hr.cap_toNat]; omega)]
    rfl
  | succ i ih =>
    have hidx : (s.decodingAt .dHdr i).idx.toNat = i := hr.idx_toNat (by omega)
    refine runs_engine (ih (by omega)) hr.noTurns ?_
    rw [engineStep_dHdr_read (hr.decodingAt_inv hm (.inl ⟨rfl, by omega⟩)) rfl (by omega), hidx]
    simp only [State.decodingAt, ofNat_idx_succ, shiftIn_cut, Nat.min_eq_left hi, Nat.min_eq_left (Nat.le_of_lt hi),
      Nat.sub_eq_zero_of_le hi, Nat.sub_eq_zero_of_le (Nat.le_of_lt hi)]
    rfl

/-- R156: each step of D_PAYLOAD reads one more bit of the message. -/
theorem State.Ready.runs_payload (hr : s.Ready) (hm : s.HoldsMessage) {i : Nat} (h32 : 32 ≤ i)
    (hi : i ≤ 32 + declaredLength (Memory.read s.pix)) :
    runs (i + 3) s.acceptDecode = .next (s.decodingAt .dPayload i) := by
  have hmfits := hm.fits
  have hcap := hr.cap_toNat
  induction i, h32 using Nat.le_induction with
  | base =>
    have hidx : (s.decodingAt .dHdr 32).idx.toNat = 32 := hr.idx_toNat (by omega)
    have hplen := State.decodingAt_plen_declared (s := s) .dLenchk le_rfl
    have hlenchk : runs 34 s.acceptDecode = .next (s.decodingAt .dLenchk 32) :=
      runs_engine (hr.runs_header hm le_rfl) hr.noTurns (engineStep_dHdr_end rfl hidx.ge)
    refine runs_engine hlenchk hr.noTurns ?_
    rw [engineStep_dLenchk rfl, hplen, show (s.decodingAt .dLenchk 32).cap.toNat = s.requestedCap from hcap,
      if_neg (by omega), if_neg (not_not.2 hm.bytes)]
    rfl
  | succ i h32 ih =>
    have hidx : (s.decodingAt .dPayload i).idx.toNat = i := hr.idx_toNat (by omega)
    have hplen := State.decodingAt_plen_declared (s := s) .dPayload h32
    refine runs_engine (ih (by omega)) hr.noTurns ?_
    rw [engineStep_dPayload_read (hr.decodingAt_inv hm (.inr ⟨rfl, h32, by omega⟩)) rfl (by omega),
      hr.payloadMsgOut_decodingAt h32 (by omega), hidx]
    refine congrArg Host.Outcome.next ?_
    simp only [show (s.decodingAt .dPayload i).pix = s.pix from rfl, State.decodingAt_shreg_succ _ h32]
    simp only [State.decodingAt, ofNat_idx_succ, Nat.min_eq_right h32, Nat.min_eq_right (h32.trans (Nat.le_succ i))]
    rfl

/-- The state a successful DECODE ends in (R156, R158). -/
def State.decoded (s : State) : State :=
  { s.decodingAt .dPayload (32 + declaredLength (Memory.read s.pix)) with
    outLen := BitVec.ofNat 32 (declaredLength (Memory.read s.pix) / 8) }.finishOk

/-- R157: a successful DECODE takes PLEN + 36 engine steps. -/
theorem State.Ready.runs_decode (hr : s.Ready) (hm : s.HoldsMessage) :
    runs (declaredLength (Memory.read s.pix) + 36) s.acceptDecode = .next s.decoded := by
  have hidx : (s.decodingAt .dPayload (32 + declaredLength (Memory.read s.pix))).idx.toNat = _ := hr.idx_toNat hm.fits
  have h32 : 32 ≤ 32 + declaredLength (Memory.read s.pix) := Nat.le_add_right 32 _
  have hplen := State.decodingAt_plen_declared (s := s) .dPayload h32
  have hrun := hr.runs_payload hm h32 le_rfl
  rw [show 32 + declaredLength (Memory.read s.pix) + 3 = declaredLength (Memory.read s.pix) + 35 by omega] at hrun
  refine runs_engine hrun hr.noTurns ?_
  rw [engineStep_dPayload_end rfl (by omega), hplen]
  rfl

theorem State.Ready.decoded_msgOut (hr : s.Ready) (a : Nat) :
    Memory.read s.decoded.msgOut a = if a < declaredLength (Memory.read s.pix) / 8
      then messageChar (Memory.read s.pix) a else Memory.read s.msgOut a := by
  refine (Memory.read_fill (hr.inv.mem_wf .msgOut) _ _ a).trans ?_
  rw [Nat.add_sub_cancel_left]
  rfl

end Sys2Proof.Machine
end

section
/-! PROOFS. R134: the frame reads back, and the round trip through the two operations. -/

namespace Sys2Proof.Machine

/-- Samples whose low bits are the frame bits of a message declare its length (R92, R98). -/
theorem declaredLength_of_frame {l : Nat} {msg pix : Nat → Byte} (hl : 8 * l < 2 ^ 32)
    (hbits : ∀ i < frameLength l, lsb (pix i) = frameBit l msg i) : declaredLength pix = 8 * l := by
  rw [← bitsValue_lengthBit hl]
  refine bitsValue_congr fun i hi => ?_
  exact (hbits i (hi.trans_le (Nat.le_add_right 32 _))).trans (if_pos hi)

/-- Samples whose low bits are the frame bits of a message hold its characters (R93, R99). -/
theorem messageChar_of_frame {l : Nat} {msg pix : Nat → Byte}
    (hbits : ∀ i < frameLength l, lsb (pix i) = frameBit l msg i) {j : Nat} (hj : j < l) :
    messageChar pix j = msg j := by
  refine BitVec.eq_of_toNat_eq ?_
  rw [messageChar_toNat, ← bitsValue_charBit (msg j) j]
  refine bitsValue_congr fun k hk => ?_
  rw [Nat.add_assoc, hbits _ (by unfold frameLength; omega), frameBit, if_neg (by omega), Nat.add_sub_cancel_left,
    charIndex, show (8 * j + k) / 8 = j by omega]

variable {s : State}

/-- R200: the STATUS word after success. -/
theorem finished_word : Status.accepted.finished.word = 0x00000002#32 := by decide

/-- R132: in the frame, bit 0 of the encoded image is the frame bit. -/
theorem State.lsb_encodedAt {i : Nat} (h : i < frameLength s.msgLen.toNat) :
    lsb (s.encodedAt i) = frameBit s.msgLen.toNat (Memory.read s.msgIn) i := by
  rw [State.encodedAt_frame h, lsb_setlsb]

/-- Settles O55: the samples that DECODE reads carry the frame bits of R132, so they declare the message's length and
hold its characters, and the two runs end as R127 and R157 say. -/
theorem roundTrip : Obligations.RoundTrip := by
  intro s hi ha hc hf
  have hr := hi.ready ha hc
  replace hf : frameLength s.msgLen.toNat ≤ s.requestedCap := hf
  refine ⟨_, _, hr.exec_encode, hr.runs_encode hf, finished_word, fun v hvi hva hcfg hw hh hlow => ?_⟩
  have hcap : v.requestedCap = s.requestedCap := by unfold State.requestedCap; rw [hw, hh]
  have hrv := hvi.ready hva (by rw [hcap, hcfg]; exact hc)
  have hbits : ∀ i < frameLength s.msgLen.toNat,
      lsb (Memory.read v.pix i) = frameBit s.msgLen.toNat (Memory.read s.msgIn) i := by
    intro i hlt
    rw [hlow i (hlt.trans_le hf), hr.encoded_outPix, if_pos (hlt.trans_le hf), State.lsb_encodedAt hlt]
  have hcap_lt := hr.cap_lt
  have hlen := declaredLength_of_frame (by unfold frameLength at hf; omega) hbits
  have hchars : declaredLength (Memory.read v.pix) / 8 = s.msgLen.toNat := by omega
  have hm : v.HoldsMessage := ⟨by rw [hlen, hcap]; exact hf, by omega⟩
  refine ⟨_, v.decoded, hrv.exec_decode, hlen ▸ hrv.runs_decode hm, finished_word, ?_, fun j hj => ?_⟩
  · refine BitVec.eq_of_toNat_eq ((BitVec.toNat_ofNat _ _).trans ?_)
    rw [hchars, Nat.mod_eq_of_lt s.msgLen.isLt]
  · rw [hrv.decoded_msgOut, hchars, if_pos hj, messageChar_of_frame hbits hj]

end Sys2Proof.Machine
end

section
/-! PROOFS. R153, R154, R155, R156, R205: the four phases of DECODE, one engine step each. -/

namespace Sys2Proof.Machine

/-- Settles O35: the step is the two-way choice of R153, and `raise` and `goto` write the fields named. -/
theorem bufferCheckStep : Obligations.BufferCheckStep := fun _ hp => engineStep_dCheck hp

/-- Settles O37: the step is the choice of R155, its two checks in order. -/
theorem lengthCheckStep : Obligations.LengthCheckStep := fun _ hp => engineStep_dLenchk hp

variable {s : State}

/-- R154: below 32 bits read PLEN has room for one more, so the cut to 32 bits drops nothing. -/
theorem BlockInv.shiftIn_plen_lt (hi : BlockInv s) (hp : s.phase = .dHdr) (h : s.idx.toNat < 32) (b : Bool) :
    shiftIn s.plen.toNat b < 2 ^ 32 := by
  obtain ⟨-, -, hplen⟩ := hi.hdrBounds hp
  have hpow : 2 ^ (s.idx.toNat + 1) ≤ 2 ^ 32 := Nat.pow_le_pow_right (by decide) h
  have hb := b.toNat_le
  rw [Nat.pow_succ] at hpow
  unfold shiftIn
  omega

/-- R154, R98: at the end of D_HDR PLEN is the value of all 32 length bits. -/
theorem Progress.header_end (hg : Progress s) (hp : s.phase = .dHdr) (h : s.idx.toNat = 32) :
    s.plen.toNat = declaredLength (Memory.read s.pix) := by
  rw [hg.header hp, h]
  rfl

/-- Settles O36: below 32 the step reads one bit, and PLEN has room for it; at 32 it goes on to D_LENCHK. -/
theorem headerStep : Obligations.HeaderStep := by
  intro s hi hp
  obtain ⟨hcap, hidx, -⟩ := hi.hdrBounds hp
  refine ⟨fun hlt => ?_, fun hge => ?_⟩
  · exact ⟨_, engineStep_dHdr_read hi hp hlt, State.idx_add_one_toNat (by omega), BitVec.toNat_ofNat _ _,
      (BitVec.toNat_ofNat _ _).trans (Nat.mod_eq_of_lt (hi.shiftIn_plen_lt hp hlt _)), rfl⟩
  · have h32 : s.idx.toNat = 32 := by omega
    exact ⟨h32, engineStep_dHdr_end hp h32.ge, fun hg => hg.header_end hp h32⟩

/-- R156: a payload step stores the byte it completes at that byte's place and no other byte. -/
theorem BlockInv.read_payloadMsgOut (hi : BlockInv s) (a : Nat) :
    Memory.read (payloadMsgOut s) a =
      if (s.idx.toNat - 32) % 8 = 7 ∧ a = (s.idx.toNat - 32) / 8
      then BitVec.ofNat 8 (shiftIn s.shreg.toNat (lsb (Memory.read s.pix s.idx.toNat)))
      else Memory.read s.msgOut a := by
  unfold payloadMsgOut
  by_cases h7 : (s.idx.toNat - 32) % 8 = 7
  · simp only [h7, true_and, if_true]
    exact Memory.read_write (hi.mem_wf .msgOut) _ a _
  · simp only [h7, false_and, if_false]

/-- R156, R99: the byte that a character's last bit completes is that character. -/
theorem Progress.completed_char (hg : Progress s) (hp : s.phase = .dPayload) (h32 : 32 ≤ s.idx.toNat)
    (h7 : (s.idx.toNat - 32) % 8 = 7) :
    BitVec.ofNat 8 (shiftIn s.shreg.toNat (lsb (Memory.read s.pix s.idx.toNat))) =
      messageChar (Memory.read s.pix) ((s.idx.toNat - 32) / 8) := by
  have hshreg : s.shreg =
      BitVec.ofNat 8 (bitsValue (fun k => lsb (Memory.read s.pix (32 + k))) (s.idx.toNat - 32)) :=
    BitVec.eq_of_toNat_eq ((hg.assembled hp).trans (BitVec.toNat_ofNat _ 8).symm)
  rw [hshreg, shiftIn_cut, ← ofNat_bitsValue_eq_messageChar,
    show 8 * ((s.idx.toNat - 32) / 8) + 8 = s.idx.toNat - 32 + 1 by omega, bitsValue,
    show 32 + (s.idx.toNat - 32) = s.idx.toNat by omega]

/-- Settles O38: below the end of the frame the step reads one bit and stores the byte it completes; at the end it is
`finish_ok`, and PLEN being a number of bytes no byte is pending. -/
theorem payloadStep : Obligations.PayloadStep := by
  intro s hi hp
  obtain ⟨hcap, hbytes, hlo, hhi⟩ := hi.payloadBounds hp
  refine ⟨fun hlt => ?_, fun hge => ?_⟩
  · exact ⟨_, engineStep_dPayload_read hi hp hlt, State.idx_add_one_toNat (by omega), BitVec.toNat_ofNat _ _,
      fun hg h7 => hg.completed_char hp hlo h7, hi.read_payloadMsgOut, rfl⟩
  · have hplen := s.plen.isLt
    exact ⟨by omega, by omega, _, engineStep_dPayload_end hp (by omega),
      (BitVec.toNat_ofNat _ _).trans (Nat.mod_eq_of_lt (by omega)), rfl⟩

end Sys2Proof.Machine
end

section
/-! PROOFS. R152, R153, R155: how a DECODE ends, with a message or with an error. -/

namespace Sys2Proof.Machine

/-! The function, case by case -/

theorem decodeImage_bufferTooShort {w h : Nat} (pix : Nat → Byte) (hc : capacityOf w h < 32) :
    decodeImage w h pix = .error .bufferTooShort := if_pos hc

theorem decodeImage_lengthTooLong {w h : Nat} {pix : Nat → Byte} (h32 : 32 ≤ capacityOf w h)
    (hlen : capacityOf w h < 32 + declaredLength pix) : decodeImage w h pix = .error .lengthTooLong := by
  rw [decodeImage, if_neg (Nat.not_lt.2 h32), if_pos hlen]

theorem decodeImage_fits {w h : Nat} {pix : Nat → Byte} (hlen : 32 + declaredLength pix ≤ capacityOf w h) :
    decodeImage w h pix = if declaredLength pix % 8 ≠ 0 then .error .lengthNotBytes
      else .ok ((List.range (declaredLength pix / 8)).map (messageChar pix)) := by
  rw [decodeImage, if_neg (by omega), if_neg (Nat.not_lt.2 hlen)]

/-! The runs that end in an error -/

variable {s : State}

/-- R153: a DECODE of an image without a whole length field takes one engine step and ends with DETAIL 1. -/
theorem State.Ready.runs_decode_bufferTooShort (hr : s.Ready) (hc : s.requestedCap < 32) :
    runs 1 s.acceptDecode = .next (s.acceptDecode.raise .decodeError .bufferTooShort) := by
  refine runs_engine (runs_zero _) hr.noTurns ?_
  rw [engineStep_dCheck rfl, if_pos]
  exact hr.cap_toNat.trans_lt hc

/-- The reading step of D_HDR needs no more of the state than that PIX has the sample (R154). -/
theorem engineStep_dHdr_read_of_lt {v : State} (hp : v.phase = .dHdr) (h : v.idx.toNat < 32)
    (hpix : v.idx.toNat < v.cfg.pixDepth) :
    engineStep v = .next { v with
      plen := BitVec.ofNat 32 (shiftIn v.plen.toNat (lsb (Memory.read v.pix v.idx.toNat)))
      idx := v.idx + 1#33 } := by
  rw [show engineStep v = stepDHdr v by simp [engineStep, hp], stepDHdr, if_pos h, readByte_of_lt hpix]
  rfl

/-- R154: an image with a whole length field has it read, also where the length it declares is then refused
(`State.Ready.runs_header` is about an image that holds a message). -/
theorem State.Ready.runs_lengthField (hr : s.Ready) (hc : 32 ≤ s.requestedCap) {i : Nat} (hi : i ≤ 32) :
    runs (i + 1) s.acceptDecode = .next (s.decodingAt .dHdr i) := by
  induction i with
  | zero =>
    refine runs_engine (runs_zero _) hr.noTurns ?_
    rw [engineStep_dCheck rfl, if_neg (by rw [State.acceptDecode_cap, hr.cap_toNat]; omega)]
    rfl
  | succ i ih =>
    have hfits := hr.fits
    have hidx : (s.decodingAt .dHdr i).idx.toNat = i := hr.idx_toNat (by omega)
    have hpix : (s.decodingAt .dHdr i).idx.toNat < s.cfg.pixDepth := by omega
    refine runs_engine (ih (by omega)) hr.noTurns ?_
    rw [engineStep_dHdr_read_of_lt rfl (by omega) hpix, hidx]
    simp only [State.decodingAt, ofNat_idx_succ, shiftIn_cut, Nat.min_eq_left hi, Nat.min_eq_left (Nat.le_of_lt hi),
      Nat.sub_eq_zero_of_le hi, Nat.sub_eq_zero_of_le (Nat.le_of_lt hi)]
    rfl

/-- R155: 34 engine steps after acceptance the declared length stands in PLEN and is about to be checked. -/
theorem State.Ready.runs_toLengthCheck (hr : s.Ready) (hc : 32 ≤ s.requestedCap) :
    runs 34 s.acceptDecode = .next (s.decodingAt .dLenchk 32) := by
  have hidx : (s.decodingAt .dHdr 32).idx.toNat = 32 := hr.idx_toNat hc
  exact runs_engine (hr.runs_lengthField hc le_rfl) hr.noTurns (engineStep_dHdr_end rfl hidx.ge)

/-- The state a DECODE ends in when the check of the declared length fails (R155, R206). -/
def State.lengthRefused (s : State) (d : Detail) : State := (s.decodingAt .dLenchk 32).raise .decodeError d

/-- R155: a declared length beyond the image ends the operation with DETAIL 2. -/
theorem State.Ready.runs_decode_lengthTooLong (hr : s.Ready) (hc : 32 ≤ s.requestedCap)
    (hlen : s.requestedCap < 32 + declaredLength (Memory.read s.pix)) :
    runs 35 s.acceptDecode = .next (s.lengthRefused .lengthTooLong) := by
  refine runs_engine (hr.runs_toLengthCheck hc) hr.noTurns ?_
  rw [engineStep_dLenchk rfl, State.decodingAt_plen_declared _ le_rfl, if_pos]
  · rfl
  · exact hr.cap_toNat.trans_lt hlen

/-- R155: a declared length that fits but is no number of bytes ends the operation with DETAIL 3. -/
theorem State.Ready.runs_decode_lengthNotBytes (hr : s.Ready)
    (hlen : 32 + declaredLength (Memory.read s.pix) ≤ s.requestedCap)
    (hbytes : declaredLength (Memory.read s.pix) % 8 ≠ 0) :
    runs 35 s.acceptDecode = .next (s.lengthRefused .lengthNotBytes) := by
  refine runs_engine (hr.runs_toLengthCheck (by omega)) hr.noTurns ?_
  rw [engineStep_dLenchk rfl, State.decodingAt_plen_declared _ le_rfl, if_neg, if_pos hbytes]
  · rfl
  · exact Nat.not_lt.2 (hlen.trans_eq hr.cap_toNat.symm)

/-! The end of a successful run -/

theorem State.Ready.decoded_outLen (hr : s.Ready) (hm : s.HoldsMessage) :
    s.decoded.outLen.toNat = declaredLength (Memory.read s.pix) / 8 := by
  have hcap := hr.cap_lt
  have hmfits := hm.fits
  exact (BitVec.toNat_ofNat _ _).trans (Nat.mod_eq_of_lt (by omega))

/-- Settles O51: R153 and R155 decide between the four runs, and each ends in the outcome of R152 for its case. -/
theorem decodeRunsToItsFunction : Obligations.DecodeRunsToItsFunction := by
  intro s hi ha hc
  have hr := hi.ready ha hc
  refine ⟨_, hr.exec_decode, ?_⟩
  rcases Nat.lt_or_ge s.requestedCap 32 with h32 | h32
  case inl =>
    rw [decodeImage_bufferTooShort _ h32]
    exact ⟨_, hr.runs_decode_bufferTooShort h32, rfl⟩
  rcases Nat.lt_or_ge s.requestedCap (32 + declaredLength (Memory.read s.pix)) with hlen | hlen
  case inl =>
    rw [decodeImage_lengthTooLong h32 hlen]
    exact ⟨_, hr.runs_decode_lengthTooLong h32 hlen, rfl⟩
  rw [decodeImage_fits hlen]
  by_cases hbytes : declaredLength (Memory.read s.pix) % 8 = 0
  case neg =>
    rw [if_pos hbytes]
    exact ⟨_, hr.runs_decode_lengthNotBytes hlen hbytes, rfl⟩
  case pos =>
    have hm : s.HoldsMessage := ⟨hlen, hbytes⟩
    have hwhole : 8 * (declaredLength (Memory.read s.pix) / 8) = declaredLength (Memory.read s.pix) := by omega
    rw [if_neg (not_not.2 hbytes)]
    simp only [List.length_map, List.length_range, hwhole]
    refine ⟨_, hr.runs_decode hm, ?_, hr.decoded_outLen hm, fun a hge => ?_,
      State.decodingAt_plen_declared .dPayload (Nat.le_add_right 32 _), hr.idx_toNat hm.fits, rfl⟩
    · refine List.map_congr_left fun a hmem => ?_
      rw [hr.decoded_msgOut, if_pos (List.mem_range.1 hmem)]
    · rw [hr.decoded_msgOut, if_neg (Nat.not_lt.2 hge)]

end Sys2Proof.Machine
end

section
/-! PROOFS. R165, R166: what DECODE reports depends on bit 0 of the frame's samples and on nothing else. -/

namespace Sys2Proof.Machine

/-! The function -/

/-- R98: the length field is in the first 32 samples. -/
theorem declaredLength_congr {pix pix' : Nat → Byte} (hlow : ∀ i < 32, lsb (pix' i) = lsb (pix i)) :
    declaredLength pix' = declaredLength pix := bitsValue_congr hlow

/-- R99: a character is in its own 8 samples. -/
theorem messageChar_congr {pix pix' : Nat → Byte} {j : Nat}
    (hlow : ∀ k < 8, lsb (pix' (32 + 8 * j + k)) = lsb (pix (32 + 8 * j + k))) :
    messageChar pix' j = messageChar pix j := congrArg (BitVec.ofNat 8) (bitsValue_congr hlow)

/-- R165, R166: images that agree in bit 0 of the frame of one of them decode alike, and the size of an image counts
only where it does not hold the frame. -/
theorem decodeImage_congr {w h w' h' : Nat} {pix pix' : Nat → Byte}
    (hcap : capacityOf w' h' = capacityOf w h ∨
      32 + declaredLength pix ≤ capacityOf w h ∧ 32 + declaredLength pix ≤ capacityOf w' h')
    (hlow : ∀ i < 32 + declaredLength pix, lsb (pix' i) = lsb (pix i)) :
    decodeImage w' h' pix' = decodeImage w h pix := by
  have hlen : declaredLength pix' = declaredLength pix := declaredLength_congr fun i hi => hlow i (by omega)
  have hchars : (List.range (declaredLength pix / 8)).map (messageChar pix') =
      (List.range (declaredLength pix / 8)).map (messageChar pix) := by
    refine List.map_congr_left fun j hj => messageChar_congr fun k hk => hlow _ ?_
    have hj := List.mem_range.1 hj
    omega
  obtain hcap | ⟨hfits, hfits'⟩ := hcap
  · rw [decodeImage, decodeImage, hcap, hlen, hchars]
  · rw [decodeImage_fits hfits, decodeImage_fits (by rwa [hlen]), hlen, hchars]

/-! The block -/

/-- What the host reads of a DECODE that has ended with the outcome given: STATUS, OUT_LEN and, below it, MSG_OUT. -/
def State.Reports (u : State) : Except Detail (List Byte) → Prop
  | .ok msg => u.status = Status.accepted.finished ∧ u.outLen.toNat = msg.length ∧ bytesOf u.msgOut msg.length = msg
  | .error d => u.status = Status.raised .decodeError d ∧ u.outLen = 0#32

/-- However many moves it takes, a DECODE that has ended reports the outcome of R152. -/
theorem State.Ready.decode_reports {s t u : State} {n : Nat} (hr : s.Ready) (hexec : exec .decode s = .next t)
    (hrun : runs n t = .next u) (hbusy : u.status.busy = false) :
    u.Reports (decodeImage s.width.toNat s.height.toNat (Memory.read s.pix)) := by
  obtain ⟨t', hexec', hend⟩ := decodeRunsToItsFunction s hr.inv ⟨hr.notBusy, hr.noTurns⟩ hr.fits
  cases hexec.symm.trans hexec'
  cases hr.exec_decode.symm.trans hexec
  have ends {v : State} {m : Nat} (hv : runs m s.acceptDecode = .next v) (hvb : v.status.busy = false) : u = v :=
    runs_end_unique (s := s.acceptDecode) hr.noTurns nofun hrun hv hbusy hvb
  generalize decodeImage s.width.toNat s.height.toNat (Memory.read s.pix) = r at hend ⊢
  cases r with
  | ok msg =>
    obtain ⟨v, hv, hbytes, hlen, -, -, -, heq⟩ := hend
    have hstatus : v.status = Status.accepted.finished := congrArg State.status heq
    rw [ends hv (congrArg Status.busy hstatus)]
    exact ⟨hstatus, hlen, hbytes⟩
  | error d =>
    obtain ⟨v, hv, heq⟩ := hend
    have hstatus : v.status = Status.raised .decodeError d := congrArg State.status heq
    rw [ends hv (congrArg Status.busy hstatus)]
    exact ⟨hstatus, congrArg State.outLen heq⟩

/-- Two blocks that report one outcome read alike. -/
theorem State.Reports.read_alike {u u' : State} {r : Except Detail (List Byte)} (hu : u.Reports r)
    (hu' : u'.Reports r) : u'.status = u.status ∧ u'.outLen = u.outLen ∧
      ∀ j, j < u.outLen.toNat → Memory.read u'.msgOut j = Memory.read u.msgOut j := by
  cases r with
  | ok msg =>
    obtain ⟨hstatus, hlen, hbytes⟩ := hu
    obtain ⟨hstatus', hlen', hbytes'⟩ := hu'
    refine ⟨hstatus'.trans hstatus.symm, BitVec.eq_of_toNat_eq (hlen'.trans hlen.symm), fun j hj => ?_⟩
    exact List.map_inj_left.1 (hbytes'.trans hbytes.symm) j (List.mem_range.2 (hlen ▸ hj))
  | error d =>
    obtain ⟨hstatus, hlen⟩ := hu
    obtain ⟨hstatus', hlen'⟩ := hu'
    refine ⟨hstatus'.trans hstatus.symm, hlen'.trans hlen.symm, fun j hj => ?_⟩
    simp [hlen] at hj

/-- Settles O53: both blocks report what the function gives, and it gives the same for both images. -/
theorem decodeDependsOnlyOnFrameLowBits : Obligations.DecodeDependsOnlyOnFrameLowBits := by
  intro s s' t t' u u' n n' hi hi' ha ha' hc hc' hcap hlow hexec hexec' hrun hrun' hbusy hbusy'
  have hu := (hi.ready ha hc).decode_reports hexec hrun hbusy
  have hu' := (hi'.ready ha' hc').decode_reports hexec' hrun' hbusy'
  rw [decodeImage_congr hcap hlow] at hu'
  exact hu.read_alike hu'

end Sys2Proof.Machine
end

section
/-! PROOFS. R181 to R187: what a write to CMD does, case by case, and its decision as a whole. -/

namespace Sys2Proof.Machine

/-! The rejection (R184, R185) -/

theorem State.reject_of_not_busy {s : State} (hb : s.status.busy = false) (c : ErrCode) :
    s.reject c = { s with
      status := { busy := false, done := true, err := true, ecode := c, detail := .none }, outLen := 0#32 } := by
  rw [State.reject, Status.rejected, hb]

/-! The commands: one equation per case -/

theorem exec_nop (s : State) : exec .nop s = .next s := rfl

/-- A write to register 0 is the command event, of the command its word decodes to. -/
theorem hostWriteReg_zero (word : Word) (s : State) : hostWriteReg 0 word s = exec (decodeWord word) s := rfl

theorem whenNotBusy_of_not_busy {s : State} (hb : s.status.busy = false) (k : State → Out) : whenNotBusy s k = k s :=
  if_neg (by simp [hb])

theorem withLegalConfig_of_oversize {s : State} (hc : s.cfg.pixDepth < s.requestedCap) (k : State → Out) :
    withLegalConfig s k = .next (s.reject .badConfig) := if_pos hc

theorem withLegalConfig_of_fits {s : State} (hc : s.requestedCap ≤ s.cfg.pixDepth) (k : State → Out) :
    withLegalConfig s k = k s := if_neg (Nat.not_lt.2 hc)

theorem exec_of_busy {s : State} (hb : s.status.busy = true) (i : Instr) : exec i s = .next s := by
  cases i with
  | nop => exact exec_nop s
  | encode | decode | reserved3 => exact if_pos hb

section NotBusy

variable {s : State} (hb : s.status.busy = false)
include hb

theorem exec_reserved3 : exec .reserved3 s = .next (s.reject .illegalCmd) := by
  rw [exec, execReserved3, whenNotBusy_of_not_busy hb]

theorem exec_of_oversize {i : Instr} (hi : i = .encode ∨ i = .decode) (hc : s.cfg.pixDepth < s.requestedCap) :
    exec i s = .next (s.reject .badConfig) := by
  obtain rfl | rfl := hi
  · rw [exec, execEncode, whenNotBusy_of_not_busy hb, withLegalConfig_of_oversize hc]
  · rw [exec, execDecode, whenNotBusy_of_not_busy hb, withLegalConfig_of_oversize hc]

theorem exec_encode_of_fits (hc : s.requestedCap ≤ s.cfg.pixDepth) : exec .encode s = .next s.acceptEncode := by
  rw [exec, execEncode, whenNotBusy_of_not_busy hb, withLegalConfig_of_fits hc]

theorem exec_decode_of_fits (hc : s.requestedCap ≤ s.cfg.pixDepth) : exec .decode s = .next s.acceptDecode := by
  rw [exec, execDecode, whenNotBusy_of_not_busy hb, withLegalConfig_of_fits hc]

end NotBusy

/-- Settles O8: NOP answers its state, and the words with OP = 0 are those that decode to it. -/
theorem nopChangesNothing : Obligations.NopChangesNothing := by
  refine ⟨exec_nop, fun s word hop => ?_⟩
  have hnop : decodeWord word = .nop := by
    rcases decodeWord_cases word with ⟨h, -⟩ | ⟨-, h⟩ | ⟨-, h⟩ | ⟨-, h⟩
    · exact h
    all_goals omega
  rw [hostWriteReg_zero, hnop, exec_nop]

/-- Settles O9: whatever the word decodes to, the command is ignored. -/
theorem commandIgnoredWhileBusy : Obligations.CommandIgnoredWhileBusy := fun _ hb =>
  ⟨exec_of_busy hb, fun word => exec_of_busy hb (decodeWord word)⟩

/-- Settles O11: the configuration check rejects, and with BUSY = 0 a rejection writes the fields named. -/
theorem oversizeImageRejected : Obligations.OversizeImageRejected := by
  intro i s hi hb hc
  rw [exec_of_oversize hb hi hc, State.reject_of_not_busy hb]

/-- Settles O12: nothing but BUSY is looked at, and with BUSY = 0 a rejection writes the fields named. -/
theorem reservedCommandRejected : Obligations.ReservedCommandRejected := by
  intro s hb
  rw [exec_reserved3 hb, State.reject_of_not_busy hb]

/-- Settles O10: both commands pass the configuration check; the bound on PIX_DEPTH makes CAP exact, and 36 bits are
enough for FLEN. -/
theorem acceptanceLatchesOperands : Obligations.AcceptanceLatchesOperands := by
  intro s hb hc hdepth
  have hfits : s.requestedCap ≤ s.cfg.pixDepth := hc
  have hcap : (BitVec.ofNat 32 s.requestedCap).toNat = s.requestedCap :=
    (BitVec.toNat_ofNat _ _).trans (Nat.mod_eq_of_lt (by omega))
  exact ⟨⟨_, exec_encode_of_fits hb hc, rfl, hcap, flen_toNat s.msgLen⟩, ⟨_, exec_decode_of_fits hb hc, rfl, hcap⟩⟩

/-! OnCmdWrite (R187): one equation per line -/

theorem onCmdWrite_of_busy {s : State} (hb : s.status.busy = true) (word : Word) : onCmdWrite word s = s := if_pos hb

section NotBusy

variable {s : State} {word : Word} (hb : s.status.busy = false)
include hb

theorem onCmdWrite_nop (hop : word.toNat % 4 = 0) : onCmdWrite word s = s := by
  simp [onCmdWrite, hb, hop]

theorem onCmdWrite_reserved3 (hop : word.toNat % 4 = 3) : onCmdWrite word s = s.reject .illegalCmd := by
  simp [onCmdWrite, hb, hop, State.reject_of_not_busy, Status.clear]

theorem onCmdWrite_of_oversize (hop : word.toNat % 4 = 1 ∨ word.toNat % 4 = 2)
    (hc : s.cfg.pixDepth < s.requestedCap) : onCmdWrite word s = s.reject .badConfig := by
  have hc' : s.cfg.pixDepth < 3 * s.width.toNat * s.height.toNat := hc
  obtain hop | hop := hop <;> simp [onCmdWrite, hb, hop, hc', State.reject_of_not_busy, Status.clear]

/-- Clearing STATUS and OUT_LEN first makes no difference to what acceptance writes. -/
theorem onCmdWrite_encode_of_fits (hop : word.toNat % 4 = 1) (hc : s.requestedCap ≤ s.cfg.pixDepth) :
    onCmdWrite word s = s.acceptEncode := by
  have hc' : ¬ s.cfg.pixDepth < 3 * s.width.toNat * s.height.toNat := Nat.not_lt.2 hc
  simp only [onCmdWrite, hb, hop, hc', if_false, if_true]
  rfl

theorem onCmdWrite_decode_of_fits (hop : word.toNat % 4 = 2) (hc : s.requestedCap ≤ s.cfg.pixDepth) :
    onCmdWrite word s = s.acceptDecode := by
  have hc' : ¬ s.cfg.pixDepth < 3 * s.width.toNat * s.height.toNat := Nat.not_lt.2 hc
  simp only [onCmdWrite, hb, hop, hc', if_false]
  rfl

end NotBusy

/-- Settles O13: in each case of BUSY, OP and the configuration check, the command and OnCmdWrite answer one state. -/
theorem cmdWriteIsTheDecision : Obligations.CmdWriteIsTheDecision := by
  intro word s
  rw [hostWriteReg_zero]
  cases hb : s.status.busy with
  | true => rw [exec_of_busy hb, onCmdWrite_of_busy hb]
  | false =>
    rcases decodeWord_cases word with ⟨hi, hop⟩ | ⟨hi, hop⟩ | ⟨hi, hop⟩ | ⟨hi, hop⟩
    · rw [hi, exec_nop, onCmdWrite_nop hb hop]
    · rcases Nat.lt_or_ge s.cfg.pixDepth s.requestedCap with hc | hc
      · rw [exec_of_oversize hb (.inl hi) hc, onCmdWrite_of_oversize hb (.inl hop) hc]
      · rw [hi, exec_encode_of_fits hb hc, onCmdWrite_encode_of_fits hb hop hc]
    · rcases Nat.lt_or_ge s.cfg.pixDepth s.requestedCap with hc | hc
      · rw [exec_of_oversize hb (.inr hi) hc, onCmdWrite_of_oversize hb (.inr hop) hc]
      · rw [hi, exec_decode_of_fits hb hc, onCmdWrite_decode_of_fits hb hop hc]
    · rw [hi, exec_reserved3 hb, onCmdWrite_reserved3 hb hop]

end Sys2Proof.Machine
end

section
/-! PROOFS. R180, R195: what one engine step does in a state that meets the invariant, said once, case by case. -/

namespace Sys2Proof.Machine

/-- The engine steps of a state that meets the invariant, with the condition under which each is taken (R123 to R126,
R153 to R156, R194). -/
inductive EngineMove (s : State) : State → Prop where
  | stay (hp : s.phase = .idle) : EngineMove s s
  | frameTooLong (hp : s.phase = .eCheck) (h : s.cap.toNat < s.flen.toNat) :
      EngineMove s (s.raise .capacityError .none)
  | startEmbed (hp : s.phase = .eCheck) (h : s.flen.toNat ≤ s.cap.toNat) : EngineMove s (s.goto .eEmbed)
  | embed (hp : s.phase = .eEmbed) (h : s.idx.toNat < s.flen.toNat) :
      EngineMove s { s with
        outPix := Memory.write s.outPix s.idx.toNat
          (setlsb (Memory.read s.pix s.idx.toNat) (frameBit s.llen.toNat (Memory.read s.msgIn) s.idx.toNat))
        idx := s.idx + 1#33 }
  | startCopy (hp : s.phase = .eEmbed) (h : s.flen.toNat ≤ s.idx.toNat) : EngineMove s (s.goto .eCopy)
  | copy (hp : s.phase = .eCopy) (h : s.idx.toNat < s.cap.toNat) :
      EngineMove s { s with
        outPix := Memory.write s.outPix s.idx.toNat (Memory.read s.pix s.idx.toNat)
        idx := s.idx + 1#33 }
  | endEncode (hp : s.phase = .eCopy) (h : s.cap.toNat ≤ s.idx.toNat) : EngineMove s s.finishOk
  | bufferTooShort (hp : s.phase = .dCheck) (h : s.cap.toNat < 32) :
      EngineMove s (s.raise .decodeError .bufferTooShort)
  | startHeader (hp : s.phase = .dCheck) (h : 32 ≤ s.cap.toNat) : EngineMove s (s.goto .dHdr)
  | header (hp : s.phase = .dHdr) (h : s.idx.toNat < 32) :
      EngineMove s { s with
        plen := BitVec.ofNat 32 (shiftIn s.plen.toNat (lsb (Memory.read s.pix s.idx.toNat)))
        idx := s.idx + 1#33 }
  | startLengthCheck (hp : s.phase = .dHdr) (h : 32 ≤ s.idx.toNat) : EngineMove s (s.goto .dLenchk)
  | lengthTooLong (hp : s.phase = .dLenchk) (h : s.cap.toNat < 32 + s.plen.toNat) :
      EngineMove s (s.raise .decodeError .lengthTooLong)
  | lengthNotBytes (hp : s.phase = .dLenchk) (h : 32 + s.plen.toNat ≤ s.cap.toNat) (h8 : s.plen.toNat % 8 ≠ 0) :
      EngineMove s (s.raise .decodeError .lengthNotBytes)
  | startPayload (hp : s.phase = .dLenchk) (h : 32 + s.plen.toNat ≤ s.cap.toNat) (h8 : s.plen.toNat % 8 = 0) :
      EngineMove s (s.goto .dPayload)
  | payload (hp : s.phase = .dPayload) (h : s.idx.toNat < 32 + s.plen.toNat) :
      EngineMove s { s with
        msgOut := payloadMsgOut s
        shreg := BitVec.ofNat 8 (shiftIn s.shreg.toNat (lsb (Memory.read s.pix s.idx.toNat)))
        idx := s.idx + 1#33 }
  | endDecode (hp : s.phase = .dPayload) (h : 32 + s.plen.toNat ≤ s.idx.toNat) :
      EngineMove s { s with outLen := BitVec.ofNat 32 (s.plen.toNat / 8) }.finishOk

theorem BlockInv.engineStep_move {s : State} (hi : BlockInv s) : ∃ t, engineStep s = .next t ∧ EngineMove s t := by
  cases hp : s.phase with
  | idle => exact ⟨_, engineStep_idle hp, .stay hp⟩
  | eCheck =>
    rcases Nat.lt_or_ge s.cap.toNat s.flen.toNat with h | h
    · exact ⟨_, (engineStep_eCheck hp).trans (if_pos h), .frameTooLong hp h⟩
    · exact ⟨_, (engineStep_eCheck hp).trans (if_neg (Nat.not_lt.2 h)), .startEmbed hp h⟩
  | eEmbed =>
    rcases Nat.lt_or_ge s.idx.toNat s.flen.toNat with h | h
    · exact ⟨_, engineStep_eEmbed_write hi hp h, .embed hp h⟩
    · exact ⟨_, engineStep_eEmbed_end hp h, .startCopy hp h⟩
  | eCopy =>
    rcases Nat.lt_or_ge s.idx.toNat s.cap.toNat with h | h
    · exact ⟨_, engineStep_eCopy_write hi hp h, .copy hp h⟩
    · exact ⟨_, engineStep_eCopy_end hp h, .endEncode hp h⟩
  | dCheck =>
    rcases Nat.lt_or_ge s.cap.toNat 32 with h | h
    · exact ⟨_, (engineStep_dCheck hp).trans (if_pos h), .bufferTooShort hp h⟩
    · exact ⟨_, (engineStep_dCheck hp).trans (if_neg (Nat.not_lt.2 h)), .startHeader hp h⟩
  | dHdr =>
    rcases Nat.lt_or_ge s.idx.toNat 32 with h | h
    · exact ⟨_, engineStep_dHdr_read hi hp h, .header hp h⟩
    · exact ⟨_, engineStep_dHdr_end hp h, .startLengthCheck hp h⟩
  | dLenchk =>
    rcases Nat.lt_or_ge s.cap.toNat (32 + s.plen.toNat) with h | h
    · exact ⟨_, (engineStep_dLenchk hp).trans (if_pos h), .lengthTooLong hp h⟩
    · have hstep := (engineStep_dLenchk hp).trans (if_neg (Nat.not_lt.2 h))
      by_cases h8 : s.plen.toNat % 8 = 0
      · exact ⟨_, hstep.trans (if_neg (not_not.2 h8)), .startPayload hp h h8⟩
      · exact ⟨_, hstep.trans (if_pos h8), .lengthNotBytes hp h h8⟩
  | dPayload =>
    rcases Nat.lt_or_ge s.idx.toNat (32 + s.plen.toNat) with h | h
    · exact ⟨_, engineStep_dPayload_read hi hp h, .payload hp h⟩
    · exact ⟨_, engineStep_dPayload_end hp h, .endDecode hp h⟩

theorem BlockInv.move_of_engineStep {s t : State} (hi : BlockInv s) (h : engineStep s = .next t) : EngineMove s t := by
  obtain ⟨t', ht', hmove⟩ := hi.engineStep_move
  cases ht'.symm.trans h
  exact hmove

end Sys2Proof.Machine
end

section
/-! PROOFS. R180, R193: everything that one move of the machine can do, said once. -/

namespace Sys2Proof.Machine

/-! The move of each turn (see also `step_alone`, `step_of_writeReg_turn`, `step_of_readReg_turn`) -/

section Turns

variable {s : State} {rest : List Turn}

theorem step_of_engine_turn (h : s.turns = .engine :: rest) : step s = engineStep { s with turns := rest } := by
  rw [step, Machine.move, h]

theorem step_of_writeMem_turn {m : MemId} {a : Nat} {v : Byte} (h : s.turns = .host (.writeMem m a v) :: rest) :
    step s = hostWriteMem m a v { s with turns := rest } := by
  rw [step, Machine.move, h]

theorem step_of_readMem_turn {m : MemId} {a : Nat} (h : s.turns = .host (.readMem m a) :: rest) :
    step s = hostReadMem m a { s with turns := rest } := by
  rw [step, Machine.move, h]

theorem step_of_copyByte_turn {a : Nat} (h : s.turns = .host (.copyByte a) :: rest) :
    step s = hostCopyByte a { s with turns := rest } := by
  rw [step, Machine.move, h]

theorem step_of_wait_turn (h : s.turns = .host .wait :: rest) : step s = hostWait s { s with turns := rest } := by
  rw [step, Machine.move, h]

theorem step_of_reset_turn (h : s.turns = .host .reset :: rest) : step s = hostReset { s with turns := rest } := by
  rw [step, Machine.move, h]

end Turns

/-! A host access to a memory, made while BUSY = 0 and below the depth (R190) -/

section Access

variable {s : State} (hb : s.status.busy = false)
include hb

theorem hostMemory_of_not_busy (m : MemId) (a : Nat) (k : State → Out) : hostMemory m a s k = k s :=
  if_neg (by simp [hb])

theorem hostWriteMem_of_lt {m : MemId} {a : Nat} (ha : a < depthOf s.cfg m) (v : Byte) :
    hostWriteMem m a v s = .next (s.setMem m (Memory.write (s.mem m) a v)) := by
  rw [hostWriteMem, hostMemory_of_not_busy hb, writeByte_of_lt ha]

theorem hostReadMem_of_lt {m : MemId} {a : Nat} (ha : a < depthOf s.cfg m) :
    hostReadMem m a s = .next (s.reply (.mem m a (Memory.read (s.mem m) a))) := by
  rw [hostReadMem, hostMemory_of_not_busy hb, readByte_of_lt ha]

theorem hostCopyByte_of_lt {a : Nat} (ha : a < s.cfg.pixDepth) :
    hostCopyByte a s = .next ((s.reply (.mem .outPix a (Memory.read s.outPix a))).setMem .pix
      (Memory.write s.pix a (Memory.read s.outPix a))) := by
  rw [hostCopyByte, hostMemory_of_not_busy hb, readByte_of_lt ha, writeByte_of_lt ha]
  rfl

end Access

/-! The moves as one relation -/

/-- The moves of the machine that have a next state, each with the turn that it takes. -/
inductive MachineMove (s : State) : State → Prop where
  /-- No turn is left, the turn is the engine's, or the host waits for BUSY = 0. -/
  | engine {t : State} (ts : List Turn)
      (hturns : s.turns = [] ∧ ts = [] ∨ s.turns = .engine :: ts ∨
        s.status.busy = true ∧ (∃ rest, s.turns = .host .wait :: rest) ∧ ts = s.turns)
      (h : engineStep { s with turns := ts } = .next t) : MachineMove s t
  | command {t : State} (word : Word) (rest : List Turn) (hturns : s.turns = .host (.writeReg 0 word) :: rest)
      (h : exec (decodeWord word) { s with turns := rest } = .next t) : MachineMove s t
  | writeReg (n : Nat) (v : Word) (rest : List Turn) (hturns : s.turns = .host (.writeReg n v) :: rest) (hn : n ≠ 0) :
      MachineMove s ({ s with turns := rest }.writeReg n v)
  /-- A host read, and the end of WAIT. -/
  | reply (r : Reply) (rest : List Turn) : MachineMove s ({ s with turns := rest }.reply r)
  | writeMem (m : MemId) (a : Nat) (v : Byte) (rest : List Turn) (hturns : s.turns = .host (.writeMem m a v) :: rest)
      (hb : s.status.busy = false) (ha : a < depthOf s.cfg m) :
      MachineMove s ({ s with turns := rest }.setMem m (Memory.write (s.mem m) a v))
  | copyByte (a : Nat) (rest : List Turn) (hturns : s.turns = .host (.copyByte a) :: rest)
      (hb : s.status.busy = false) (ha : a < s.cfg.pixDepth) :
      MachineMove s (({ s with turns := rest }.reply (.mem .outPix a (Memory.read s.outPix a))).setMem .pix
        (Memory.write s.pix a (Memory.read s.outPix a)))
  | reset (rest : List Turn) (hturns : s.turns = .host .reset :: rest) :
      MachineMove s { s with turns := rest }.abandon.resetRegisters

theorem machineMove_of_step {s t : State} (h : step s = .next t) : MachineMove s t := by
  rw [step, Machine.move] at h
  split at h
  case h_1 hturns => exact .engine [] (.inl ⟨hturns, rfl⟩) (by rwa [← hturns])
  case h_2 rest hturns => exact .engine rest (.inr (.inl hturns)) h
  case h_3 n v rest hturns =>
    by_cases hn : n = 0
    · subst hn
      exact .command v rest hturns h
    · rw [hostWriteReg_of_ne_zero hn] at h
      cases h
      exact .writeReg n v rest hturns hn
  case h_4 n rest hturns => cases h; exact .reply _ rest
  case h_5 m a v rest hturns =>
    obtain ⟨hb, h⟩ := hostMemory_next h
    obtain ⟨ha, h⟩ := writeByte_next h
    cases h
    exact .writeMem m a v rest hturns hb ha
  case h_6 m a rest hturns =>
    obtain ⟨-, h⟩ := hostMemory_next h
    obtain ⟨-, h⟩ := readByte_next h
    cases h
    exact .reply _ rest
  case h_7 a rest hturns =>
    obtain ⟨hb, h⟩ := hostMemory_next h
    obtain ⟨-, h⟩ := readByte_next h
    obtain ⟨ha, h⟩ := writeByte_next h
    cases h
    exact .copyByte a rest hturns hb ha
  case h_8 rest hturns =>
    unfold hostWait at h
    split at h
    case isTrue hb => exact .engine s.turns (.inr (.inr ⟨hb, ⟨rest, hturns⟩, rfl⟩)) h
    case isFalse hb => cases h; exact .reply _ rest
  case h_9 rest hturns => cases h; exact .reset rest hturns

end Sys2Proof.Machine
end

section
/-! PROOFS. R48: every move of the machine keeps the invariant. -/

namespace Sys2Proof.Machine

variable {s t : State}

/-! The host's moves -/

/-- The invariant does not look at the turns still to come. -/
theorem BlockInv.setTurns (hi : BlockInv s) (ts : List Turn) : BlockInv { s with turns := ts } := { hi with }

theorem BlockInv.reply (hi : BlockInv s) (r : Reply) : BlockInv (s.reply r) := { hi with }

/-- R37: the invariant speaks of the copies taken at acceptance, never of WIDTH, HEIGHT and MSG_LEN. -/
theorem BlockInv.writeReg (hi : BlockInv s) (n : Nat) (v : Word) : BlockInv (s.writeReg n v) := by
  rw [State.writeReg_eq_ite]
  exact { hi with }

theorem Memory.good_iff (d : Nat) (m : Memory) :
    Memory.good d m = true ↔ Memory.wf m = true ∧ Memory.below d m = true := by
  rw [Memory.good, Bool.and_eq_true]

theorem Memory.good_write {d : Nat} {m : Memory} (h : Memory.good d m = true) {a : Nat} (ha : a < d) (v : Byte) :
    Memory.good d (Memory.write m a v) = true := by
  rw [Memory.good_iff] at h ⊢
  exact ⟨Memory.wf_write h.1 a v, Memory.below_write h.2 ha v⟩

theorem Memory.good_fill {d : Nat} {m : Memory} (h : Memory.good d m = true) (f : Nat → Byte) {n : Nat} (hn : n ≤ d) :
    Memory.good d (Memory.fill f n m) = true := by
  rw [Memory.good_iff] at h ⊢
  exact ⟨Memory.wf_fill h.1 f n, Memory.below_fill h.2 f hn⟩

/-- The registers' part of the invariant does not look at the memories. -/
theorem BlockInv.setMem (hi : BlockInv s) {m : MemId} {x : Memory} (hx : Memory.good (depthOf s.cfg m) x = true) :
    BlockInv (s.setMem m x) := by
  have hgood (m' : MemId) : Memory.good (depthOf (s.setMem m x).cfg m') ((s.setMem m x).mem m') = true := by
    rw [State.setMem_mem, State.setMem_cfg]
    split
    case isTrue h => exact h ▸ hx
    case isFalse => exact hi.memGood m'
  cases m <;> exact { hi with memGood := hgood }

/-- A write below the depth keeps the invariant (R190). -/
theorem BlockInv.write (hi : BlockInv s) {m : MemId} {a : Nat} (ha : a < depthOf s.cfg m) (v : Byte) :
    BlockInv (s.setMem m (Memory.write (s.mem m) a v)) := hi.setMem (Memory.good_write (hi.memGood m) ha v)

/-! An idle block -/

theorem BlockInv.idle_of_not_busy (hi : BlockInv s) (hb : s.status.busy = false) : s.phase = .idle := by
  by_contra hne
  simp [hi.busyPhase.2 hne] at hb

/-- The clauses (c), (d) and (e), which speak of STATUS alone. -/
structure Status.Consistent (st : Status) : Prop where
  errDone : st.err = true → st.done = true
  errEcode : st.err = true ↔ st.ecode ≠ .none
  detailEcode : st.detail ≠ .none ↔ st.ecode = .decodeError

theorem Status.Consistent.clear : Status.clear.Consistent := by constructor <;> simp [Status.clear]

theorem Status.Consistent.raised {c : ErrCode} {d : Detail} (hc : c ≠ .none) (hd : d ≠ .none ↔ c = .decodeError) :
    (Status.raised c d).Consistent := ⟨fun _ => rfl, by simpa [Status.raised] using hc, hd⟩

theorem Status.Consistent.rejected {c : ErrCode} (hc : c ≠ .none) (hd : c ≠ .decodeError) (st : Status) :
    (st.rejected c).Consistent :=
  ⟨fun _ => rfl, by simpa [Status.rejected] using hc, by simpa [Status.rejected] using hd⟩

/-- R48 (b), (d), (e): while BUSY = 1 STATUS is as acceptance left it, and with it at a successful end (R205). -/
theorem BlockInv.status_of_busy (hi : BlockInv s) (hb : s.status.busy = true) : s.status = Status.accepted := by
  obtain ⟨hdone, herr⟩ := hi.busyFlags hb
  have hecode : s.status.ecode = .none := by simpa [herr] using hi.errEcode
  have hdetail : s.status.detail = .none := by simpa [hecode] using hi.detailEcode
  cases hst : s.status
  simp_all [Status.accepted, Status.clear]

/-- In a block without an operation the invariant is about the memories, STATUS and what OUT_LEN says of the last
DECODE. -/
theorem BlockInv.of_idle (hc : s.cfg.legal = true) (hmem : ∀ m, Memory.good (depthOf s.cfg m) (s.mem m) = true)
    (hp : s.phase = .idle) (ho : s.opr = .none) (hb : s.status.busy = false) (hst : s.status.Consistent)
    (hout : s.outLen ≠ 0#32 → s.status = { Status.clear with done := true } ∧
      8 * s.outLen.toNat = s.plen.toNat ∧ s.idx.toNat = 32 + s.plen.toNat) : BlockInv s := by
  constructor
  case cfgLegal => exact hc
  case memGood => exact hmem
  case errDone => exact hst.errDone
  case errEcode => exact hst.errEcode
  case detailEcode => exact hst.detailEcode
  case outLenDecode => exact hout
  all_goals simp [hp, ho, hb, Phase.ofEncode, Phase.ofDecode]

/-- R46: with every register at its reset value the invariant is about the memories. -/
theorem BlockInv.resetRegisters (hc : s.cfg.legal = true)
    (hmem : ∀ m, Memory.good (depthOf s.cfg m) (s.mem m) = true) : BlockInv s.resetRegisters :=
  .of_idle hc (fun m => by cases m <;> exact hmem _) rfl rfl rfl .clear (absurd rfl)

theorem BlockInv.reject (hi : BlockInv s) (hb : s.status.busy = false) {c : ErrCode} (hc : c ≠ .none)
    (hd : c ≠ .decodeError) : BlockInv (s.reject c) := by
  have ho : s.opr = .none := by simpa [hb] using hi.busyOpr
  exact .of_idle hi.cfgLegal hi.memGood (hi.idle_of_not_busy hb) ho hb (.rejected hc hd _) (absurd rfl)

theorem BlockInv.raise (hi : BlockInv s) (hb : s.status.busy = true) {c : ErrCode} {d : Detail} (hc : c ≠ .none)
    (hd : d ≠ .none ↔ c = .decodeError) : BlockInv (s.raise c d) :=
  .of_idle hi.cfgLegal hi.memGood rfl rfl rfl (.raised hc hd) (absurd (hi.busyOutLen hb))

/-- R205: the end of an operation; `len` is what it leaves in OUT_LEN. -/
theorem BlockInv.finishOk (hi : BlockInv s) (hb : s.status.busy = true) (len : Word)
    (hlen : len ≠ 0#32 → 8 * len.toNat = s.plen.toNat ∧ s.idx.toNat = 32 + s.plen.toNat) :
    BlockInv ({ s with outLen := len }.finishOk) := by
  have hst : s.status.finished = { Status.clear with done := true } := by rw [hi.status_of_busy hb]; rfl
  refine .of_idle hi.cfgLegal hi.memGood rfl rfl rfl ?_ fun h => ⟨hst, hlen h⟩
  rw [State.finishOk_status, hst]
  constructor <;> simp [Status.clear]

/-- R232: the free values stay inside the memories. -/
theorem BlockInv.abandon (hi : BlockInv s) (m : MemId) : Memory.good (depthOf s.cfg m) (s.abandon.mem m) = true := by
  unfold State.abandon
  split
  case isFalse => exact hi.memGood m
  case isTrue hb =>
    split
    case h_1 => exact hi.memGood m
    case h_2 =>
      cases m with
      | outPix => exact Memory.good_fill (hi.memGood .outPix) _ (hi.busyCap hb)
      | pix | msgIn | msgOut => exact hi.memGood _
    case h_3 =>
      cases m with
      | msgOut =>
        refine Memory.good_fill (hi.memGood .msgOut) _ ?_
        unfold abandonedChars
        split
        · exact Nat.zero_le _
        · exact Nat.min_le_right _ _
      | pix | msgIn | outPix => exact hi.memGood _

theorem BlockInv.hostReset (hi : BlockInv s) : BlockInv s.abandon.resetRegisters :=
  .resetRegisters (by rw [State.abandon_cfg]; exact hi.cfgLegal) (by rw [State.abandon_cfg]; exact hi.abandon)

/-! An operation in progress -/

/-- The clauses (h), (i) and (j) and the start values, for the phase in which the engine stands. -/
def State.PhaseBounds (s : State) : Prop :=
  match s.phase with
  | .idle => True
  | .eCheck => s.idx.toNat = 0
  | .eEmbed => s.idx.toNat ≤ s.flen.toNat ∧ s.flen.toNat ≤ s.cap.toNat
  | .eCopy => s.flen.toNat ≤ s.idx.toNat ∧ s.flen.toNat ≤ s.cap.toNat ∧ s.idx.toNat ≤ s.cap.toNat
  | .dCheck => s.idx.toNat = 0 ∧ s.plen.toNat = 0
  | .dHdr => 32 ≤ s.cap.toNat ∧ s.idx.toNat ≤ 32 ∧ s.plen.toNat < 2 ^ s.idx.toNat
  | .dLenchk => 32 ≤ s.cap.toNat ∧ s.idx.toNat = 32
  | .dPayload => 32 + s.plen.toNat ≤ s.cap.toNat ∧ s.plen.toNat % 8 = 0 ∧
      32 ≤ s.idx.toNat ∧ s.idx.toNat ≤ 32 + s.plen.toNat

/-- An operation in progress meets the invariant when its registers say which operation it is and the bounds of its
phase hold. -/
theorem BlockInv.of_busy (hc : s.cfg.legal = true) (hmem : ∀ m, Memory.good (depthOf s.cfg m) (s.mem m) = true)
    (hst : s.status = Status.accepted) (hcap : s.cap.toNat ≤ s.cfg.pixDepth) (hout : s.outLen = 0#32)
    (hop : s.phase.ofEncode = true ∧ s.opr = .enc ∧ s.flen.toNat = frameLength s.llen.toNat ∨
      s.phase.ofDecode = true ∧ s.opr = .dec) (hbounds : s.PhaseBounds) : BlockInv s := by
  have hb : s.status.busy = true := by rw [hst]; rfl
  have hidle : s.phase ≠ .idle := fun hp => by simp [hp, Phase.ofEncode, Phase.ofDecode] at hop
  have hopr : s.opr ≠ .none := by obtain ⟨-, ho, -⟩ | ⟨-, ho⟩ := hop <;> simp [ho]
  have hnotBoth (he : s.phase.ofEncode = true) : s.phase.ofDecode ≠ true := by
    cases hp : s.phase <;> simp [hp, Phase.ofEncode, Phase.ofDecode] at he ⊢
  unfold State.PhaseBounds at hbounds
  constructor
  case cfgLegal => exact hc
  case memGood => exact hmem
  case busyPhase => exact ⟨fun _ => hidle, fun _ => hb⟩
  case busyOpr => exact ⟨fun _ => hopr, fun _ => hb⟩
  case busyFlags | errDone | errEcode | detailEcode => simp [hst, Status.accepted, Status.clear]
  case encodeOpr => exact fun he => (hop.resolve_right fun hd => hnotBoth he hd.1).2.1
  case decodeOpr => exact fun hd => (hop.resolve_left fun he => hnotBoth he.1 hd).2
  case busyCap => exact fun _ => hcap
  case busyOutLen => exact fun _ => hout
  case encodeFlen => exact fun he => (hop.resolve_right fun hd => hnotBoth he hd.1).2.2
  case checkIdx =>
    rintro (hp | hp) <;> rw [hp] at hbounds
    · exact hbounds
    · exact hbounds.1
  case dCheckPlen =>
    intro hp
    rw [hp] at hbounds
    exact hbounds.2
  case embedBounds | copyBounds | hdrBounds | lenchkBounds | payloadBounds =>
    intro hp
    rw [hp] at hbounds
    exact hbounds
  case outLenDecode => exact absurd hout

/-- R182, R183: an accepted image fits PIX, and so does the CAP it is latched as. -/
theorem State.acceptCommon_cap_le (hc : s.requestedCap ≤ s.cfg.pixDepth) :
    (BitVec.ofNat 32 s.requestedCap).toNat ≤ s.cfg.pixDepth := by
  rw [BitVec.toNat_ofNat]
  exact (Nat.mod_le _ _).trans hc

theorem BlockInv.acceptEncode (hi : BlockInv s) (hc : s.requestedCap ≤ s.cfg.pixDepth) : BlockInv s.acceptEncode :=
  .of_busy hi.cfgLegal hi.memGood rfl (State.acceptCommon_cap_le hc) rfl (.inl ⟨rfl, rfl, flen_toNat s.msgLen⟩) rfl

theorem BlockInv.acceptDecode (hi : BlockInv s) (hc : s.requestedCap ≤ s.cfg.pixDepth) : BlockInv s.acceptDecode :=
  .of_busy hi.cfgLegal hi.memGood rfl (State.acceptCommon_cap_le hc) rfl (.inr ⟨rfl, rfl⟩) ⟨rfl, rfl⟩

theorem BlockInv.command {i : Instr} (hi : BlockInv s) (h : exec i s = .next t) : BlockInv t := by
  rcases exec_cases i s with ⟨hexec, -⟩ | ⟨hexec, -, hb⟩ | ⟨hexec, -, hb, -⟩ | ⟨hexec, -, -, hc⟩ | ⟨hexec, -, -, hc⟩ <;>
    cases hexec.symm.trans h
  · exact hi
  · exact hi.reject hb (by decide) (by decide)
  · exact hi.reject hb (by decide) (by decide)
  · exact hi.acceptEncode hc
  · exact hi.acceptDecode hc

/-- An operation goes on: of the registers the invariant looks at, such a step changes PHASE, IDX and PLEN. -/
theorem BlockInv.of_continues (hi : BlockInv s) (hp : s.phase ≠ .idle) {p : Phase} {i : BitVec 33} {l : BitVec 32}
    {sh : BitVec 8} {o m : Memory} (hop : p.ofEncode = s.phase.ofEncode ∧ p.ofDecode = s.phase.ofDecode)
    (ho : Memory.good s.cfg.pixDepth o = true) (hm : Memory.good s.cfg.msgDepth m = true)
    (hbounds : { s with phase := p, idx := i, plen := l, shreg := sh, outPix := o, msgOut := m }.PhaseBounds) :
    BlockInv { s with phase := p, idx := i, plen := l, shreg := sh, outPix := o, msgOut := m } := by
  have hb : s.status.busy = true := hi.busyPhase.2 hp
  have hmem (x : MemId) : Memory.good (depthOf s.cfg x)
      ({ s with phase := p, idx := i, plen := l, shreg := sh, outPix := o, msgOut := m }.mem x) = true := by
    cases x with
    | pix => exact hi.memGood .pix
    | msgIn => exact hi.memGood .msgIn
    | outPix => exact ho
    | msgOut => exact hm
  refine .of_busy hi.cfgLegal hmem (hi.status_of_busy hb) (hi.busyCap hb) (hi.busyOutLen hb) ?_ hbounds
  rw [hop.1, hop.2]
  cases hphase : s.phase with
  | idle => exact absurd hphase hp
  | eCheck | eEmbed | eCopy =>
    have he : s.phase.ofEncode = true := by rw [hphase]; rfl
    exact .inl ⟨rfl, hi.encodeOpr he, hi.encodeFlen he⟩
  | dCheck | dHdr | dLenchk | dPayload =>
    have hd : s.phase.ofDecode = true := by rw [hphase]; rfl
    exact .inr ⟨rfl, hi.decodeOpr hd⟩

theorem BlockInv.good_payloadMsgOut (hi : BlockInv s) (hp : s.phase = .dPayload) (h : s.idx.toNat < 32 + s.plen.toNat) :
    Memory.good s.cfg.msgDepth (payloadMsgOut s) = true := by
  obtain ⟨hcap, hbytes, hlo, -⟩ := hi.payloadBounds hp
  have hdepth := hi.cap_le hp (by decide)
  unfold payloadMsgOut
  split
  · exact Memory.good_write (hi.memGood .msgOut) (hi.char_lt (n := s.plen.toNat / 8) hlo (by omega) (by omega)) _
  · exact hi.memGood .msgOut

/-- The engine keeps the invariant: an operation ends, or goes on within the bounds of its next phase. -/
theorem BlockInv.engineMove (hi : BlockInv s) (hmove : EngineMove s t) : BlockInv t := by
  have busy {p : Phase} (hp : s.phase = p) (hne : p ≠ .idle) : s.status.busy = true := hi.busy_of_phase hp hne
  have hout := hi.memGood .outPix
  have hmsg := hi.memGood .msgOut
  cases hmove with
  | stay => exact hi
  | frameTooLong hp | bufferTooShort hp | lengthTooLong hp | lengthNotBytes hp =>
    exact hi.raise (busy hp nofun) nofun (by decide)
  | endEncode hp => exact hi.finishOk (busy hp nofun) s.outLen (absurd (hi.busyOutLen (busy hp nofun)))
  | endDecode hp h =>
    obtain ⟨-, hbytes, -, hhi⟩ := hi.payloadBounds hp
    have hplen := s.plen.isLt
    have hlen : (BitVec.ofNat 32 (s.plen.toNat / 8)).toNat = s.plen.toNat / 8 :=
      (BitVec.toNat_ofNat _ _).trans (Nat.mod_eq_of_lt (by omega))
    exact hi.finishOk (busy hp nofun) _ fun _ => ⟨by omega, by omega⟩
  | startEmbed hp h =>
    have hidx := hi.checkIdx (.inl hp)
    exact hi.of_continues (by simp [hp]) (by simp [hp, Phase.ofEncode, Phase.ofDecode]) hout hmsg ⟨by simp [hidx], h⟩
  | embed hp h =>
    obtain ⟨-, hcap⟩ := hi.embedBounds hp
    have hdepth := hi.cap_le hp (by decide)
    refine hi.of_continues (by simp [hp]) ⟨rfl, rfl⟩ (Memory.good_write hout (by simp; omega) _) hmsg ?_
    simp only [State.PhaseBounds, hp, State.idx_add_one_toNat (h.trans_le hcap)]
    exact ⟨h, hcap⟩
  | startCopy hp h =>
    obtain ⟨hidx, hcap⟩ := hi.embedBounds hp
    exact hi.of_continues (by simp [hp]) (by simp [hp, Phase.ofEncode, Phase.ofDecode]) hout hmsg
      ⟨h, hcap, hidx.trans hcap⟩
  | copy hp h =>
    obtain ⟨hlo, hcap, -⟩ := hi.copyBounds hp
    have hdepth := hi.cap_le hp (by decide)
    refine hi.of_continues (by simp [hp]) ⟨rfl, rfl⟩ (Memory.good_write hout (by simp; omega) _) hmsg ?_
    simp only [State.PhaseBounds, hp, State.idx_add_one_toNat h]
    exact ⟨by omega, hcap, h⟩
  | startHeader hp h =>
    have hidx := hi.checkIdx (.inr hp)
    have hplen := hi.dCheckPlen hp
    exact hi.of_continues (by simp [hp]) (by simp [hp, Phase.ofEncode, Phase.ofDecode]) hout hmsg
      ⟨h, by simp [hidx], by simp [hidx, hplen]⟩
  | header hp h =>
    obtain ⟨hcap, -, hplen⟩ := hi.hdrBounds hp
    refine hi.of_continues (by simp [hp]) ⟨rfl, rfl⟩ hout hmsg ?_
    simp only [State.PhaseBounds, hp, State.idx_add_one_toNat (h.trans_le hcap), BitVec.toNat_ofNat,
      Nat.mod_eq_of_lt (hi.shiftIn_plen_lt hp h _)]
    refine ⟨hcap, h, ?_⟩
    have hbit := (lsb (Memory.read s.pix s.idx.toNat)).toNat_le
    rw [Nat.pow_succ, shiftIn]
    omega
  | startLengthCheck hp h =>
    obtain ⟨hcap, hidx, -⟩ := hi.hdrBounds hp
    exact hi.of_continues (by simp [hp]) (by simp [hp, Phase.ofEncode, Phase.ofDecode]) hout hmsg
      ⟨hcap, Nat.le_antisymm hidx h⟩
  | startPayload hp h h8 =>
    obtain ⟨-, hidx⟩ := hi.lenchkBounds hp
    exact hi.of_continues (by simp [hp]) (by simp [hp, Phase.ofEncode, Phase.ofDecode]) hout hmsg
      ⟨h, h8, hidx.ge, by simp [hidx]⟩
  | payload hp h =>
    obtain ⟨hcap, hbytes, hlo, -⟩ := hi.payloadBounds hp
    refine hi.of_continues (by simp [hp]) ⟨rfl, rfl⟩ hout (hi.good_payloadMsgOut hp h) ?_
    simp only [State.PhaseBounds, hp, State.idx_add_one_toNat (h.trans_le hcap)]
    exact ⟨hcap, hbytes, by omega, h⟩

/-- Settles O43: an engine step keeps it by the bounds of the phases, a command by what it leaves in STATUS and the
registers, and a host access changes nothing that it looks at but the bytes of a memory. -/
theorem stepKeepsInvariant : Obligations.StepKeepsInvariant := by
  intro s t hi hstep
  cases machineMove_of_step hstep with
  | engine ts _ h => exact (hi.setTurns ts).engineMove ((hi.setTurns ts).move_of_engineStep h)
  | command word rest _ h => exact (hi.setTurns rest).command h
  | writeReg n v rest => exact (hi.setTurns rest).writeReg n v
  | reply r rest => exact (hi.setTurns rest).reply r
  | writeMem m a v rest _ _ ha => exact (hi.setTurns rest).write ha v
  | copyByte a rest _ _ ha => exact ((hi.setTurns rest).reply _).write (m := .pix) ha _
  | reset rest => exact (hi.setTurns rest).hostReset

end Sys2Proof.Machine
end

section
/-! PROOFS. R121, R152: every move of the machine keeps what the operation in progress has done so far. -/

namespace Sys2Proof.Machine

variable {s t : State}

/-! What there is to show in each phase -/

theorem Progress.of_idle (hp : s.phase = .idle) : Progress s := by
  constructor <;> simp [hp]

theorem Progress.of_encode (hp : s.phase.ofEncode = true)
    (hwritten : s.phase = .eEmbed ∨ s.phase = .eCopy → ∀ i < s.idx.toNat,
      Memory.read s.outPix i = encodedSample s.llen.toNat (Memory.read s.msgIn) (Memory.read s.pix) i) :
    Progress s := by
  constructor
  case written => exact hwritten
  all_goals cases hphase : s.phase <;> simp_all [Phase.ofEncode]

theorem Progress.of_header (hp : s.phase = .dHdr) (hsh : s.shreg.toNat = 0)
    (hlen : s.plen.toNat = bitsValue (fun i => lsb (Memory.read s.pix i)) s.idx.toNat) : Progress s := by
  constructor <;> simp [hp, hsh, hlen]

theorem Progress.of_lengthCheck (hp : s.phase = .dLenchk) (hsh : s.shreg.toNat = 0)
    (hlen : s.plen.toNat = declaredLength (Memory.read s.pix)) : Progress s := by
  constructor <;> simp [hp, hsh, hlen]

theorem Progress.of_payload (hp : s.phase = .dPayload) (hlen : s.plen.toNat = declaredLength (Memory.read s.pix))
    (hsh : s.shreg.toNat = bitsValue (fun k => lsb (Memory.read s.pix (32 + k))) (s.idx.toNat - 32) % 256)
    (hstored : ∀ j < (s.idx.toNat - 32) / 8, Memory.read s.msgOut j = messageChar (Memory.read s.pix) j) :
    Progress s := by
  constructor
  case stored => exact fun _ => hstored
  all_goals simp [hp, hsh, hlen]

/-! The engine -/

/-- R124, R126: the sample at IDX is the next one of R121, in the frame and after it. -/
theorem Progress.write_sample (hi : BlockInv s) (hg : Progress s) (hp : s.phase = .eEmbed ∨ s.phase = .eCopy)
    (hlt : s.idx.toNat < s.cap.toNat) :
    Progress { s with
      outPix := Memory.write s.outPix s.idx.toNat
        (encodedSample s.llen.toNat (Memory.read s.msgIn) (Memory.read s.pix) s.idx.toNat)
      idx := s.idx + 1#33 } := by
  refine .of_encode (by obtain hp | hp := hp <;> simp [hp, Phase.ofEncode]) fun _ i hlt' => ?_
  simp only [State.idx_add_one_toNat hlt] at hlt'
  refine (Memory.read_write (hi.mem_wf .outPix) _ i _).trans ?_
  split
  case isTrue h => rw [h]
  case isFalse h => exact hg.written hp i (by omega)

/-- R154: PLEN takes the bit of the sample at IDX. -/
theorem Progress.read_length (hi : BlockInv s) (hg : Progress s) (hp : s.phase = .dHdr) (h : s.idx.toNat < 32) :
    Progress { s with
      plen := BitVec.ofNat 32 (shiftIn s.plen.toNat (lsb (Memory.read s.pix s.idx.toNat)))
      idx := s.idx + 1#33 } := by
  obtain ⟨hcap, -, -⟩ := hi.hdrBounds hp
  refine .of_header hp (hg.unassembled (.inr (.inl hp))) ?_
  simp only [State.idx_add_one_toNat (h.trans_le hcap), BitVec.toNat_ofNat,
    Nat.mod_eq_of_lt (hi.shiftIn_plen_lt hp h _), bitsValue, ← hg.header hp]

/-- R156: SHREG takes the bit of the sample at IDX, and the byte this completes is stored. -/
theorem Progress.read_payload (hi : BlockInv s) (hg : Progress s) (hp : s.phase = .dPayload)
    (h : s.idx.toNat < 32 + s.plen.toNat) :
    Progress { s with
      msgOut := payloadMsgOut s
      shreg := BitVec.ofNat 8 (shiftIn s.shreg.toNat (lsb (Memory.read s.pix s.idx.toNat)))
      idx := s.idx + 1#33 } := by
  obtain ⟨hcap, -, hlo, -⟩ := hi.payloadBounds hp
  have hidx := State.idx_add_one_toNat (h.trans_le hcap)
  refine .of_payload hp (hg.declared (.inr hp)) ?_ fun j hj => ?_
  · simp only [hidx, BitVec.toNat_ofNat, shiftIn, hg.assembled hp,
      show s.idx.toNat + 1 - 32 = s.idx.toNat - 32 + 1 by omega, bitsValue_succ,
      show 32 + (s.idx.toNat - 32) = s.idx.toNat by omega]
    omega
  · simp only [hidx] at hj
    simp only [hi.read_payloadMsgOut]
    split
    case isTrue hlast => rw [hg.completed_char hp hlo hlast.1, hlast.2]
    case isFalse hlast => exact hg.stored hp j (by omega)

theorem Progress.engineMove (hi : BlockInv s) (hg : Progress s) (hmove : EngineMove s t) : Progress t := by
  cases hmove with
  | stay hp => exact hg
  | frameTooLong | bufferTooShort | lengthTooLong | lengthNotBytes | endEncode | endDecode => exact .of_idle rfl
  | startEmbed hp =>
    have hidx := hi.checkIdx (.inl hp)
    exact .of_encode rfl fun _ i hlt => by simp [hidx] at hlt
  | embed hp h =>
    have hflen := hi.encodeFlen (by rw [hp]; rfl)
    have hsample := hg.write_sample hi (.inl hp) (h.trans_le (hi.embedBounds hp).2)
    rwa [encodedSample, if_pos (hflen ▸ h)] at hsample
  | startCopy hp => exact .of_encode rfl fun _ => hg.written (.inl hp)
  | copy hp h =>
    have hflen := hi.encodeFlen (by rw [hp]; rfl)
    obtain ⟨hlo, -, -⟩ := hi.copyBounds hp
    have hsample := hg.write_sample hi (.inr hp) h
    rwa [encodedSample, if_neg (by omega)] at hsample
  | startHeader hp =>
    have hidx := hi.checkIdx (.inr hp)
    exact .of_header rfl (hg.unassembled (.inl hp)) (by simp [hidx, hg.start hp, bitsValue])
  | header hp h => exact hg.read_length hi hp h
  | startLengthCheck hp h =>
    obtain ⟨-, hidx, -⟩ := hi.hdrBounds hp
    exact .of_lengthCheck rfl (hg.unassembled (.inr (.inl hp))) (hg.header_end hp (Nat.le_antisymm hidx h))
  | startPayload hp =>
    obtain ⟨-, hidx⟩ := hi.lenchkBounds hp
    have hsh := hg.unassembled (.inr (.inr hp))
    exact .of_payload rfl (hg.declared (.inl hp)) (by simp [hidx, hsh, bitsValue]) (by simp [hidx])
  | payload hp h => exact hg.read_payload hi hp h

/-! The host -/

/-- What counts is in the registers that no register write reaches (R37) and in the memories. -/
theorem Progress.writeReg (hg : Progress s) (n : Nat) (v : Word) : Progress (s.writeReg n v) := by
  rw [State.writeReg_eq_ite]
  exact { hg with }

theorem Progress.command {i : Instr} (hi : BlockInv s) (hg : Progress s) (h : exec i s = .next t) : Progress t := by
  rcases exec_cases i s with ⟨hexec, -⟩ | ⟨hexec, -, hb⟩ | ⟨hexec, -, hb, -⟩ | ⟨hexec, -⟩ | ⟨hexec, -⟩ <;>
    cases hexec.symm.trans h
  · exact hg
  · exact .of_idle (hi.idle_of_not_busy hb)
  · exact .of_idle (hi.idle_of_not_busy hb)
  · constructor <;> simp
  · constructor <;> simp

/-- Settles O44: an engine step adds one sample or one bit to what stands, an accepted command starts with none, and the
host writes a memory only in an idle block, of which nothing is claimed. -/
theorem stepKeepsProgress : Obligations.StepKeepsProgress := by
  intro s t hi hg hstep
  have idle (hb : s.status.busy = false) : s.phase = .idle := hi.idle_of_not_busy hb
  cases machineMove_of_step hstep with
  | engine ts _ h =>
    have hit := hi.setTurns ts
    exact Progress.engineMove hit { hg with } (hit.move_of_engineStep h)
  | command word rest _ h => exact Progress.command (hi.setTurns rest) { hg with } h
  | writeReg n v rest => exact Progress.writeReg (s := { s with turns := rest }) { hg with } n v
  | reply r rest => exact { hg with }
  | writeMem m a v rest _ hb => exact .of_idle (by simpa using idle hb)
  | copyByte a rest _ hb => exact .of_idle (idle hb)
  | reset rest => exact .of_idle rfl

end Sys2Proof.Machine
end

section
/-! PROOFS. R37: an engine step neither reads nor writes WIDTH, HEIGHT, MSG_LEN or the turns still to come. -/

namespace Sys2Proof.Machine

/-- The state with other values in the fields that the host alone uses. -/
def State.withHost (s : State) (w h l : Word) (ts : List Turn) : State :=
  { s with width := w, height := h, msgLen := l, turns := ts }

/-- An outcome with its next state changed, if it has one. -/
def mapNext (f : State → State) : Out → Out
  | .next s => .next (f s)
  | .fault r => .fault r
  | .refused r => .refused r

variable {s : State} {w h l : Word} {ts : List Turn}

/-! The shared operations -/

theorem readByte_withHost {m : MemId} {a : Nat} {k k' : Byte → Out}
    (hk : ∀ v, k' v = mapNext (State.withHost · w h l ts) (k v)) :
    readByte m a (s.withHost w h l ts) k' = mapNext (State.withHost · w h l ts) (readByte m a s k) := by
  have hmem : (s.withHost w h l ts).mem m = s.mem m := by cases m <;> rfl
  rw [readByte, readByte, apply_ite (mapNext _), hmem, hk]
  rfl

theorem writeByte_withHost {m : MemId} {a : Nat} {v : Byte} {k k' : State → Out}
    (hk : ∀ t : State, k' (t.withHost w h l ts) = mapNext (State.withHost · w h l ts) (k t)) :
    writeByte m a v (s.withHost w h l ts) k' = mapNext (State.withHost · w h l ts) (writeByte m a v s k) := by
  have hset : (s.withHost w h l ts).setMem m (Memory.write ((s.withHost w h l ts).mem m) a v) =
      (s.setMem m (Memory.write (s.mem m) a v)).withHost w h l ts := by cases m <;> rfl
  rw [writeByte, writeByte, apply_ite (mapNext _), hset, hk]
  rfl

theorem embedBit_withHost {k k' : Bool → Out} (hk : ∀ b, k' b = mapNext (State.withHost · w h l ts) (k b)) :
    embedBit (s.withHost w h l ts) k' = mapNext (State.withHost · w h l ts) (embedBit s k) := by
  rw [embedBit, embedBit, apply_ite (mapNext _)]
  exact ite_congr rfl (fun _ => hk _) fun _ => readByte_withHost fun _ => hk _

theorem storeChar_withHost {c : Byte} {k k' : State → Out}
    (hk : ∀ t : State, k' (t.withHost w h l ts) = mapNext (State.withHost · w h l ts) (k t)) :
    storeChar c (s.withHost w h l ts) k' = mapNext (State.withHost · w h l ts) (storeChar c s k) := by
  rw [storeChar, storeChar, apply_ite (mapNext _)]
  exact ite_congr rfl (fun _ => writeByte_withHost hk) fun _ => hk s

/-! The engine -/

theorem engineStep_withHost :
    engineStep (s.withHost w h l ts) = mapNext (State.withHost · w h l ts) (engineStep s) := by
  have hphase : (s.withHost w h l ts).phase = s.phase := rfl
  simp only [engineStep, hphase]
  cases s.phase with
  | idle => rfl
  | eCheck =>
    simp only [stepECheck, apply_ite (mapNext _)]
    rfl
  | eEmbed =>
    simp only [stepEEmbed, apply_ite (mapNext _)]
    exact ite_congr rfl
      (fun _ => embedBit_withHost fun _ => readByte_withHost fun _ => writeByte_withHost fun _ => rfl) fun _ => rfl
  | eCopy =>
    simp only [stepECopy, apply_ite (mapNext _)]
    exact ite_congr rfl (fun _ => readByte_withHost fun _ => writeByte_withHost fun _ => rfl) fun _ => rfl
  | dCheck =>
    simp only [stepDCheck, apply_ite (mapNext _)]
    rfl
  | dHdr =>
    simp only [stepDHdr, apply_ite (mapNext _)]
    exact ite_congr rfl (fun _ => readByte_withHost fun _ => rfl) fun _ => rfl
  | dLenchk =>
    simp only [stepDLenchk, apply_ite (mapNext _)]
    rfl
  | dPayload =>
    simp only [stepDPayload, apply_ite (mapNext _)]
    exact ite_congr rfl (fun _ => readByte_withHost fun _ => storeChar_withHost fun _ => rfl) fun _ => rfl

/-- What turns are left makes no difference to an engine step but that it leaves them. -/
theorem engineStep_of_setTurns {t : State} (ht : engineStep { s with turns := ts } = .next t) :
    engineStep s = .next { t with turns := s.turns } := by
  have hstep := engineStep_withHost (s := { s with turns := ts }) (w := s.width) (h := s.height) (l := s.msgLen)
    (ts := s.turns)
  obtain ⟨-, -, hw, hh, hl, -⟩ := engineStep_unchanged ht
  have hkeep : { t with turns := s.turns } = t.withHost s.width s.height s.msgLen s.turns := by
    rw [State.withHost, ← show t.width = s.width from hw, ← show t.height = s.height from hh,
      ← show t.msgLen = s.msgLen from hl]
  rw [hkeep]
  rwa [ht] at hstep

/-- A register write is a change of those fields, and of each to a value that does not depend on the rest. -/
theorem State.writeReg_eq_withHost (s : State) (n : Nat) (v : Word) :
    s.writeReg n v = s.withHost (if n = 2 then v else s.width) (if n = 3 then v else s.height)
      (if n = 4 then v else s.msgLen) s.turns := s.writeReg_eq_ite n v

/-- Settles O21: the write changes only fields that the engine step neither reads nor writes. -/
theorem registerWriteCommutesWithEngine : Obligations.RegisterWriteCommutesWithEngine := by
  intro s n v _
  rw [State.writeReg_eq_withHost, engineStep_withHost]
  refine ⟨fun t ht => ?_, fun f hf => by rw [hf]; rfl⟩
  obtain ⟨-, -, hw, hh, hl, -, -, -, -, hturns, -, -⟩ := engineStep_unchanged ht
  rw [ht, State.writeReg_eq_withHost, hw, hh, hl, hturns]
  rfl

end Sys2Proof.Machine
end

section
/-! PROOFS. R33, R35, R70, R193, R195: where an engine step leads, and why the operation in progress ends. -/

namespace Sys2Proof.Machine

variable {s t : State}

/-! PHASE and IDX -/

/-- R183, R184, R185: only an accepted command writes PHASE. -/
theorem exec_phase {i : Instr} (h : exec i s = .next t) :
    t.phase = if s.status.busy = false ∧ s.requestedCap ≤ s.cfg.pixDepth then
      (if i = .encode then .eCheck else if i = .decode then .dCheck else s.phase) else s.phase := by
  rcases exec_cases i s with ⟨hexec, rfl | hb⟩ | ⟨hexec, rfl, -⟩ | ⟨hexec, -, -, hc⟩ | ⟨hexec, rfl, hb, hc⟩ |
      ⟨hexec, rfl, hb, hc⟩ <;> cases hexec.symm.trans h
  · simp
  · simp [hb]
  · simp
  · simp [Nat.not_le.2 hc]
  · simp [hb, hc]
  · simp [hb, hc]

/-- Settles O39: one transition for each case of an engine step, one for an accepted command, none elsewhere. -/
theorem phaseTransitions : Obligations.PhaseTransitions := by
  refine ⟨fun s hi => ?_, fun i s t h => exec_phase h, fun s t h => by cases h; rfl,
    fun s t a rest hturns hw hr ha h => ?_⟩
  · obtain ⟨t, ht, hmove⟩ := hi.engineStep_move
    refine ⟨t, ht, ?_⟩
    cases hmove with
    | stay hp => simp [hp]
    | frameTooLong hp h | bufferTooShort hp h | startHeader hp h | header hp h | lengthTooLong hp h => simp [hp, h]
    | embed hp h | copy hp h | payload hp h => simp [hp, h]
    | startEmbed hp h | startCopy hp h | endEncode hp h | startLengthCheck hp h | endDecode hp h =>
      simp [hp, Nat.not_lt.2 h]
    | lengthNotBytes hp h h8 | startPayload hp h h8 => simp [hp, h8, Nat.not_lt.2 h]
  · cases machineMove_of_step h with
    | engine ts hengine =>
      obtain ⟨hnone, -⟩ | hengine | ⟨-, ⟨rest', hwait⟩, -⟩ := hengine
      · cases hnone.symm.trans hturns
      · cases hengine.symm.trans hturns
      · cases hwait.symm.trans hturns
        exact absurd rfl ha
    | command word _ hcommand => cases hcommand.symm.trans hturns; exact absurd rfl (hw word)
    | writeReg | reply | writeMem => simp
    | copyByte => rfl
    | reset _ hreset => cases hreset.symm.trans hturns; exact absurd rfl hr

/-- The phases in which a step reads or writes a sample, below the end of their ranges (R124, R126, R154, R156). -/
def State.AtSample (s : State) : Prop :=
  (s.phase = .eEmbed ∧ s.idx.toNat < s.flen.toNat) ∨ (s.phase = .eCopy ∧ s.idx.toNat < s.cap.toNat) ∨
    (s.phase = .dHdr ∧ s.idx.toNat < 32) ∨ (s.phase = .dPayload ∧ s.idx.toNat < 32 + s.plen.toNat)

/-- R48 (h) to (j): IDX never passes CAP. -/
theorem BlockInv.idx_le_cap (hi : BlockInv s) (hb : s.status.busy = true) : s.idx.toNat ≤ s.cap.toNat := by
  cases hp : s.phase with
  | idle => exact absurd hp (hi.busyPhase.1 hb)
  | eCheck => have := hi.checkIdx (.inl hp); omega
  | eEmbed => obtain ⟨hidx, hcap⟩ := hi.embedBounds hp; omega
  | eCopy => exact (hi.copyBounds hp).2.2
  | dCheck => have := hi.checkIdx (.inr hp); omega
  | dHdr => obtain ⟨hcap, hidx, -⟩ := hi.hdrBounds hp; omega
  | dLenchk => obtain ⟨hcap, hidx⟩ := hi.lenchkBounds hp; omega
  | dPayload => obtain ⟨hcap, -, -, hidx⟩ := hi.payloadBounds hp; omega

theorem BlockInv.idx_lt_cap (hi : BlockInv s) (h : s.AtSample) : s.idx.toNat < s.cap.toNat := by
  obtain ⟨hp, h⟩ | ⟨-, h⟩ | ⟨hp, h⟩ | ⟨hp, h⟩ := h
  · exact h.trans_le (hi.embedBounds hp).2
  · exact h
  · exact h.trans_le (hi.hdrBounds hp).1
  · exact h.trans_le (hi.payloadBounds hp).1

/-- Of the steps an operation can still take, those that neither read nor write a sample. -/
def Phase.checksToGo : Phase → Nat
  | .idle => 0
  | .eCheck => 3
  | .eEmbed => 2
  | .eCopy => 1
  | .dCheck => 4
  | .dHdr => 3
  | .dLenchk => 2
  | .dPayload => 1

/-- A step passes the sample at IDX, or leaves IDX and goes on to a later phase; in IDLE it does neither. -/
theorem EngineMove.sample_or_phase (hi : BlockInv s) (hmove : EngineMove s t) :
    (s.AtSample ∧ t.idx.toNat = s.idx.toNat + 1 ∧ t.phase = s.phase) ∨
    (¬ s.AtSample ∧ t.idx = s.idx ∧ (s.phase = .idle ∨ t.phase.checksToGo < s.phase.checksToGo)) := by
  have passes (hs : s.AtSample) (hidx : t.idx = s.idx + 1#33) (hphase : t.phase = s.phase) :
      s.AtSample ∧ t.idx.toNat = s.idx.toNat + 1 ∧ t.phase = s.phase :=
    ⟨hs, hidx ▸ State.idx_add_one_toNat (hi.idx_lt_cap hs), hphase⟩
  cases hmove with
  | embed hp h => exact .inl (passes (.inl ⟨hp, h⟩) rfl rfl)
  | copy hp h => exact .inl (passes (.inr (.inl ⟨hp, h⟩)) rfl rfl)
  | header hp h => exact .inl (passes (.inr (.inr (.inl ⟨hp, h⟩))) rfl rfl)
  | payload hp h => exact .inl (passes (.inr (.inr (.inr ⟨hp, h⟩))) rfl rfl)
  | startCopy hp h | endEncode hp h | startLengthCheck hp h | endDecode hp h =>
    exact .inr ⟨by simpa [State.AtSample, hp] using h, rfl, .inr (by simp [hp, Phase.checksToGo])⟩
  | stay hp => exact .inr ⟨by simp [State.AtSample, hp], rfl, .inl hp⟩
  | frameTooLong hp | startEmbed hp | bufferTooShort hp | startHeader hp =>
    exact .inr ⟨by simp [State.AtSample, hp], rfl, .inr (by simp [hp, Phase.checksToGo])⟩
  | lengthTooLong hp | lengthNotBytes hp | startPayload hp =>
    exact .inr ⟨by simp [State.AtSample, hp], rfl, .inr (by simp [hp, Phase.checksToGo])⟩

/-- Settles O41: a step that reads or writes a sample stands at an index below CAP, and no other step writes IDX. -/
theorem indexNeverSkips : Obligations.IndexNeverSkips := by
  intro s hi
  obtain ⟨t, ht, hmove⟩ := hi.engineStep_move
  refine ⟨t, ht, ?_⟩
  obtain ⟨hs, hidx, -⟩ | ⟨hs, hidx, -⟩ := hmove.sample_or_phase hi
  · have hlt := hi.idx_lt_cap hs
    unfold State.AtSample at hs
    rw [hidx, if_pos hs]
    exact ⟨rfl, fun _ => hlt⟩
  · unfold State.AtSample at hs
    rw [hidx, if_neg hs]
    exact ⟨rfl, hi.idx_le_cap⟩

/-! The steps still to go -/

/-- An upper bound on the engine steps to the end of the operation. -/
def State.stepsToGo (s : State) : Nat := s.cap.toNat - s.idx.toNat + s.phase.checksToGo

theorem State.stepsToGo_le (s : State) : s.stepsToGo ≤ s.cap.toNat + 4 := by
  unfold State.stepsToGo Phase.checksToGo
  split <;> omega

theorem BlockInv.stepsToGo_lt (hi : BlockInv s) (hb : s.status.busy = true) (h : engineStep s = .next t) :
    t.stepsToGo < s.stepsToGo := by
  obtain ⟨-, -, -, -, -, hcap, -⟩ := engineStep_unchanged h
  unfold State.stepsToGo
  rw [hcap]
  obtain ⟨hs, hidx, hphase⟩ | ⟨-, hidx, hphase⟩ := (hi.move_of_engineStep h).sample_or_phase hi
  · have hlt := hi.idx_lt_cap hs
    rw [hidx, hphase]
    omega
  · have hlater := hphase.resolve_left (hi.busyPhase.1 hb)
    rw [hidx]
    omega

/-- A step goes on with the operation, or it is the end of it (R205, R206). -/
theorem EngineMove.status_or_end (hmove : EngineMove s t) :
    t.status = s.status ∨ t.status.busy = false ∧ t.status.done = true ∧ t.phase = .idle ∧ t.opr = .none := by
  cases hmove with
  | stay | startEmbed | embed | startCopy | copy | startHeader | header | startLengthCheck | startPayload | payload =>
    exact .inl rfl
  | frameTooLong | endEncode | bufferTooShort | lengthTooLong | lengthNotBytes | endDecode =>
    exact .inr ⟨rfl, rfl, rfl, rfl⟩

/-- R193: an operation ends before its bound on the steps to go is used up. -/
theorem BlockInv.ends_within (hi : BlockInv s) (ht : s.turns = []) (hb : s.status.busy = true) {n : Nat}
    (hn : s.stepsToGo ≤ n) : ∃ k u, k ≤ n ∧ runs k s = .next u ∧
      u.status.busy = false ∧ u.status.done = true ∧ u.phase = .idle ∧ u.opr = .none := by
  induction n generalizing s with
  | zero =>
    obtain ⟨t, h⟩ := engineStep_total hi
    have hlt := hi.stepsToGo_lt hb h
    omega
  | succ n ih =>
    obtain ⟨t, h⟩ := engineStep_total hi
    have hlt := hi.stepsToGo_lt hb h
    have hstep : step s = .next t := (step_alone ht).trans h
    obtain hst | hend := (hi.move_of_engineStep h).status_or_end
    · have htb : t.status.busy = true := hst ▸ hb
      obtain ⟨k, u, hk, hrun, hend⟩ :=
        ih (stepKeepsInvariant s t hi hstep) ((engineStep_turns h).trans ht) htb (by omega)
      exact ⟨k + 1, u, by omega, (runs_succ hstep k).trans hrun, hend⟩
    · exact ⟨1, t, by omega, runs_succ hstep 0, hend⟩

/-- Settles O57: the steps to go are at most CAP + 4, and once BUSY is 0 more moves change nothing. -/
theorem everyOperationEnds : Obligations.EveryOperationEnds := by
  intro s hi ht hb
  obtain ⟨k, u, hk, hrun, hub, hdone, hp, ho⟩ := hi.ends_within ht hb s.stepsToGo_le
  exact ⟨k, u, hk, hrun, hub, hdone, hp, ho, runs_alone_stays ht hi.idle_of_not_busy hrun hub⟩

/-- Settles O17: the engine's turn is its step; in IDLE it answers its state, and while BUSY = 1 a state with fewer
steps to go. -/
theorem stepRunsTheEngine : Obligations.StepRunsTheEngine := by
  refine ⟨fun s => step_alone, fun s rest => step_of_engine_turn, fun s hi hb => ?_, fun s hi hb => ?_⟩
  · exact engineStep_idle (hi.idle_of_not_busy hb)
  · obtain ⟨t, h⟩ := engineStep_total hi
    refine ⟨t, h, fun heq => ?_⟩
    have hlt := hi.stepsToGo_lt hb h
    rw [heq] at hlt
    exact absurd hlt (Nat.lt_irrefl _)

end Sys2Proof.Machine
end

section
/-! PROOFS. R25, R27, R28, R70, R218: where the machine stops, and which moves change STATUS and BUSY. -/

namespace Sys2Proof.Machine

variable {s t : State}

theorem exec_total (i : Instr) (s : State) : ∃ t, exec i s = .next t := by
  rcases exec_cases i s with ⟨h, -⟩ | ⟨h, -⟩ | ⟨h, -⟩ | ⟨h, -⟩ | ⟨h, -⟩ <;> exact ⟨_, h⟩

/-- Settles O45: the engine has its step in every phase, a command always answers, and of the host's actions only an
access to a memory can stop. -/
theorem onlyHostMisuseStops : Obligations.OnlyHostMisuseStops := by
  intro s hi
  have misuse {m : MemId} {a : Nat} (h : ¬ (s.status.busy = false ∧ a < depthOf s.cfg m)) :
      s.status.busy = true ∨ depthOf s.cfg m ≤ a := by
    cases hb : s.status.busy with
    | true => exact .inl rfl
    | false => exact .inr (by simpa [hb] using h)
  cases hturns : s.turns with
  | nil =>
    rw [step_alone hturns]
    exact .inl (engineStep_total hi)
  | cons turn rest =>
    have hrest := hi.setTurns rest
    cases turn with
    | engine =>
      rw [step_of_engine_turn hturns]
      exact .inl (engineStep_total hrest)
    | host a =>
      cases a with
      | writeReg n v =>
        rw [step_of_writeReg_turn hturns]
        refine .inl ?_
        by_cases hn : n = 0
        · subst hn
          exact exec_total _ _
        · exact ⟨_, hostWriteReg_of_ne_zero hn v _⟩
      | readReg n =>
        rw [step_of_readReg_turn hturns]
        exact .inl ⟨_, rfl⟩
      | writeMem m a v =>
        rw [step_of_writeMem_turn hturns]
        by_cases h : s.status.busy = false ∧ a < depthOf s.cfg m
        · exact .inl ⟨_, hostWriteMem_of_lt (s := { s with turns := rest }) h.1 h.2 v⟩
        · exact .inr ⟨m, a, rest, .inl ⟨v, rfl⟩, misuse h⟩
      | readMem m a =>
        rw [step_of_readMem_turn hturns]
        by_cases h : s.status.busy = false ∧ a < depthOf s.cfg m
        · exact .inl ⟨_, hostReadMem_of_lt (s := { s with turns := rest }) h.1 h.2⟩
        · exact .inr ⟨m, a, rest, .inr (.inl rfl), misuse h⟩
      | copyByte a =>
        rw [step_of_copyByte_turn hturns]
        by_cases h : s.status.busy = false ∧ a < depthOf s.cfg .outPix
        · exact .inl ⟨_, hostCopyByte_of_lt (s := { s with turns := rest }) h.1 h.2⟩
        · exact .inr ⟨.outPix, a, rest, .inr (.inr ⟨rfl, rfl⟩), misuse h⟩
      | wait =>
        rw [step_of_wait_turn hturns, hostWait]
        refine .inl ?_
        split
        · exact engineStep_total hi
        · exact ⟨_, rfl⟩
      | reset =>
        rw [step_of_reset_turn hturns]
        exact .inl ⟨_, rfl⟩

/-- R27: of the commands only an accepted one sets BUSY. -/
theorem exec_sets_busy {i : Instr} (h : exec i s = .next t) (hb : s.status.busy = false)
    (htb : t.status.busy = true) : (i = .encode ∨ i = .decode) ∧ s.requestedCap ≤ s.cfg.pixDepth := by
  rcases exec_cases i s with ⟨hexec, -⟩ | ⟨hexec, -⟩ | ⟨hexec, -⟩ | ⟨-, hi, -, hc⟩ | ⟨-, hi, -, hc⟩
  · cases hexec.symm.trans h
    exact absurd (hb.symm.trans htb) nofun
  · cases hexec.symm.trans h
    exact absurd (hb.symm.trans htb) nofun
  · cases hexec.symm.trans h
    exact absurd (hb.symm.trans htb) nofun
  · exact ⟨.inl hi, hc⟩
  · exact ⟨.inr hi, hc⟩

/-- Settles O22: the engine is idle, a word with OP = 0 is NOP, and no other move but reset writes the two registers. -/
theorem statusIsSticky : Obligations.StatusIsSticky := by
  intro s t hi hb hstep hword hreset
  cases machineMove_of_step hstep with
  | engine ts _ h =>
    cases (engineStep_idle (s := { s with turns := ts }) (hi.idle_of_not_busy hb)).symm.trans h
    exact ⟨rfl, rfl⟩
  | command word rest hturns h =>
    have hnop := nopChangesNothing.2 { s with turns := rest } word (hword word rest hturns)
    cases hnop.symm.trans h
    exact ⟨rfl, rfl⟩
  | writeReg | reply | writeMem | copyByte => simp
  | reset rest hturns => exact absurd hturns (hreset rest)

/-- Settles O23: BUSY is set by an accepted command alone, and cleared by a reset or by the step that is the end of the
operation; the turns make no difference to that step. -/
theorem busyChangesOnlyAtStartAndEnd : Obligations.BusyChangesOnlyAtStartAndEnd := by
  intro s t hi hstep
  have keeps {p q : Prop} (hst : t.status = s.status) : (s.status.busy = false → t.status.busy = true → p) ∧
      (s.status.busy = true → t.status.busy = false → q) := by
    rw [hst]
    exact ⟨fun hb hb' => absurd (hb.symm.trans hb') nofun, fun hb hb' => absurd (hb.symm.trans hb') nofun⟩
  cases machineMove_of_step hstep with
  | engine ts _ h =>
    have hit := hi.setTurns ts
    obtain hst | ⟨htb, hdone, hp, ho⟩ := (hit.move_of_engineStep h).status_or_end
    · exact keeps hst
    · exact ⟨fun _ htb' => absurd (htb.symm.trans htb') nofun,
        fun _ _ => .inr ⟨hdone, hp, ho, engineStep_of_setTurns h⟩⟩
  | command word rest hturns h =>
    cases hb : s.status.busy with
    | true =>
      cases (exec_of_busy (s := { s with turns := rest }) hb _).symm.trans h
      exact ⟨nofun, fun _ hb' => absurd (hb.symm.trans hb') nofun⟩
    | false =>
      refine ⟨fun _ htb => ?_, nofun⟩
      obtain ⟨hi, hc⟩ := exec_sets_busy h hb htb
      refine ⟨word, rest, hturns, ?_, hc⟩
      rcases decodeWord_cases word with ⟨hw, -⟩ | ⟨-, hop⟩ | ⟨-, hop⟩ | ⟨hw, -⟩
      · simp [hw] at hi
      · exact .inl hop
      · exact .inr hop
      · simp [hw] at hi
  | writeReg | reply | writeMem | copyByte => exact keeps (by simp)
  | reset rest hturns => exact ⟨fun _ htb => absurd htb nofun, fun _ _ => .inl ⟨rest, hturns⟩⟩

end Sys2Proof.Machine
end

section
/-! PROOFS. R127, R129, R130, R138, R141: when an ENCODE succeeds, where it stands after each step, and what its result
depends on. -/

namespace Sys2Proof.Machine

variable {s : State}

/-! The schedule (R127) -/

/-- R127: below IDX OUT_PIX reads the samples of the function, from IDX on what it read before. -/
theorem State.Ready.read_encodingAt_outPix (hr : s.Ready) (p : Phase) {i : Nat} (hi : i ≤ s.requestedCap) (a : Nat) :
    Memory.read (s.encodingAt p i).outPix a =
      if a < (s.encodingAt p i).idx.toNat then s.encodedAt a else Memory.read s.outPix a := by
  rw [show (s.encodingAt p i).idx.toNat = i from hr.idx_toNat hi]
  exact Memory.read_fill (hr.inv.mem_wf .outPix) _ i a

/-- R200: the STATUS word after acceptance. -/
theorem accepted_word : Status.accepted.word = 0x00000001#32 := by decide

/-- Settles O47: acceptance, then the steps of the frame, then those of the copy. -/
theorem encodeSchedule : Obligations.EncodeSchedule := by
  intro s hi ha hc hf
  have hr := hi.ready ha hc
  refine ⟨_, hr.exec_encode, fun k hk => ?_⟩
  rcases Nat.lt_or_ge (frameLength s.msgLen.toNat + 1) k with hcopy | hembed
  · obtain ⟨i, rfl⟩ : ∃ i, k = i + 2 := ⟨k - 2, by omega⟩
    refine ⟨_, hr.runs_copy (by omega) (by omega), ?_, ?_, accepted_word, rfl, hr.read_encodingAt_outPix _ (by omega)⟩
    · rw [if_neg (by omega), if_neg (by omega)]
      rfl
    · rw [if_neg (by omega)]
      exact hr.idx_toNat (by omega)
  · simp only [if_pos hembed]
    cases k with
    | zero => exact ⟨_, runs_zero _, rfl, rfl, accepted_word, rfl, fun a => rfl⟩
    | succ i =>
      exact ⟨_, hr.runs_embed hf (by omega), by rw [if_neg (by omega)]; rfl, hr.idx_toNat (by omega),
        accepted_word, rfl, hr.read_encodingAt_outPix _ (by omega)⟩

/-! The end -/

/-- The state an ENCODE that is accepted in `s` ends in (R123, R128). -/
def State.encodeEnd (s : State) : State :=
  if s.requestedCap < frameLength s.msgLen.toNat then s.acceptEncode.raise .capacityError .none else s.encoded

/-- However many moves it takes, an ENCODE that has ended has ended there. -/
theorem State.Ready.encode_end {t u : State} {n : Nat} (hr : s.Ready) (hexec : exec .encode s = .next t)
    (hrun : runs n t = .next u) (hbusy : u.status.busy = false) : u = s.encodeEnd := by
  cases hr.exec_encode.symm.trans hexec
  have ends {v : State} {m : Nat} (hv : runs m s.acceptEncode = .next v) (hvb : v.status.busy = false) : u = v :=
    runs_end_unique (s := s.acceptEncode) hr.noTurns nofun hrun hv hbusy hvb
  unfold State.encodeEnd
  split
  case isTrue hf => exact ends (hr.runs_encode_tooLong hf) rfl
  case isFalse hf => exact ends (hr.runs_encode (Nat.not_lt.1 hf)) rfl

/-- Settles O49: of the two ends only the one where the frame does not fit reports an error, and it fits up to
`(CAP - 32) div 8` characters. -/
theorem encodeSucceedsUpToLargestMessage : Obligations.EncodeSucceedsUpToLargestMessage := by
  intro s t u n hi ha hc hexec hrun hbusy
  rw [(hi.ready ha hc).encode_end hexec hrun hbusy, State.encodeEnd]
  split
  case isTrue hf =>
    unfold frameLength at hf
    refine ⟨⟨nofun, fun h => ?_⟩, fun _ => (by decide : (Status.raised .capacityError .none).word = 0x00000016#32)⟩
    omega
  case isFalse hf =>
    unfold frameLength at hf
    exact ⟨⟨fun _ => by omega, fun _ => rfl⟩, nofun⟩

/-- R121: sample `i` of the image depends on the input sample and, in the frame, on L and the characters below L. -/
theorem encodedSample_congr {l i : Nat} {msg msg' pix pix' : Nat → Byte} (hpix : pix' i = pix i)
    (hmsg : ∀ j < l, msg' j = msg j) : encodedSample l msg' pix' i = encodedSample l msg pix i := by
  unfold encodedSample
  rw [hpix]
  split
  case isFalse => rfl
  case isTrue h =>
    have hbit : frameBit l msg' i = frameBit l msg i := by
      unfold frameBit
      split
      case isTrue => rfl
      case isFalse => rw [hmsg _ (by unfold frameLength at h; unfold charIndex; omega)]
    rw [hbit]

/-- Settles O50: W, H and L decide between the two ends, and the samples of the successful one are those of R121. -/
theorem encodeDependsOnlyOnItsOperands : Obligations.EncodeDependsOnlyOnItsOperands := by
  intro s s' t t' u u' n n' hi hi' ha ha' hcfg hw hh hl hc hpix hmsg hexec hexec' hrun hrun' hbusy hbusy'
  have hcap : s'.requestedCap = s.requestedCap := by unfold State.requestedCap; rw [hw, hh]
  have hr := hi.ready ha hc
  have hr' := hi'.ready ha' (by rw [hcap, hcfg]; exact hc)
  rw [hr.encode_end hexec hrun hbusy, hr'.encode_end hexec' hrun' hbusy', State.encodeEnd, State.encodeEnd, hcap, hl]
  split
  case isTrue => exact ⟨rfl, rfl, nofun⟩
  case isFalse =>
    refine ⟨rfl, rfl, fun _ i hlt => ?_⟩
    rw [hr.encoded_outPix, hr'.encoded_outPix, hcap, if_pos hlt, if_pos hlt, State.encodedAt, hl]
    exact encodedSample_congr (hpix i hlt) hmsg

end Sys2Proof.Machine
end

section
/-! PROOFS. R157, R163: where a DECODE stands after each step, and that a second one ends as the first. -/

namespace Sys2Proof.Machine

variable {s : State}

/-! The schedule (R157) -/

/-- R152: the function gives a message only where the image holds one. -/
theorem State.holdsMessage_of_decodeImage {msg : List Byte}
    (h : decodeImage s.width.toNat s.height.toNat (Memory.read s.pix) = .ok msg) :
    s.HoldsMessage ∧ declaredLength (Memory.read s.pix) = 8 * msg.length := by
  unfold decodeImage at h
  split at h
  case isTrue => cases h
  split at h
  case isTrue => cases h
  case isFalse hfits =>
    split at h
    case isTrue => cases h
    case isFalse hbytes =>
      cases h
      rw [List.length_map, List.length_range]
      exact ⟨⟨Nat.not_lt.1 hfits, not_not.1 hbytes⟩, by omega⟩

/-- R157: MSG_OUT reads the characters completed so far, and beyond them what it read before. -/
theorem State.Ready.read_decodingAt_msgOut (hr : s.Ready) (p : Phase) {i : Nat} (hi : i ≤ s.requestedCap) (a : Nat) :
    Memory.read (s.decodingAt p i).msgOut a = if a < ((s.decodingAt p i).idx.toNat - 32) / 8
      then messageChar (Memory.read s.pix) a else Memory.read s.msgOut a := by
  rw [show (s.decodingAt p i).idx.toNat = i from hr.idx_toNat hi]
  exact Memory.read_fill (hr.inv.mem_wf .msgOut) _ _ a

/-- Settles O52: acceptance, then the steps of the length field, its check, and the steps of the payload. -/
theorem decodeSchedule : Obligations.DecodeSchedule := by
  intro s msg hi ha hc himage
  have hr := hi.ready ha hc
  obtain ⟨hm, hlen⟩ := State.holdsMessage_of_decodeImage himage
  have hmfits := hm.fits
  refine ⟨_, hr.exec_decode, fun k hk => ?_⟩
  rcases Nat.lt_or_ge k 35 with hlo | hhi
  case inr =>
    obtain ⟨i, rfl⟩ : ∃ i, k = i + 3 := ⟨k - 3, by omega⟩
    refine ⟨_, hr.runs_payload hm (by omega) (by omega), ?_, ?_, accepted_word, rfl,
      hr.read_decodingAt_msgOut _ (by omega)⟩
    · rw [if_neg (by omega), if_neg (by omega), if_neg (by omega)]
      rfl
    · rw [if_neg (by omega), if_neg (by omega)]
      exact hr.idx_toNat (by omega)
  case inl =>
    obtain rfl | hhdr : k = 34 ∨ k ≤ 33 := by omega
    · exact ⟨_, hr.runs_toLengthCheck (by omega), rfl, hr.idx_toNat (by omega), accepted_word, rfl,
        hr.read_decodingAt_msgOut _ (by omega)⟩
    · simp only [if_pos hhdr]
      cases k with
      | zero => exact ⟨_, runs_zero _, rfl, rfl, accepted_word, rfl, fun a => by simp⟩
      | succ i =>
        exact ⟨_, hr.runs_header hm (by omega), by rw [if_neg (by omega)]; rfl, hr.idx_toNat (by omega),
          accepted_word, rfl, hr.read_decodingAt_msgOut _ (by omega)⟩

/-! A second DECODE (R163) -/

/-- What the engine alone does keeps the invariant. -/
theorem BlockInv.runs_alone {u : State} {n : Nat} (hi : BlockInv s) (ht : s.turns = []) (h : runs n s = .next u) :
    BlockInv u :=
  runs_alone_keeps (fun _ _ hv hstep => hv.engineMove (hv.move_of_engineStep hstep)) hi ht h

/-- Bytes that stand in a memory already can be put there again. -/
theorem Memory.fill_fill {m : Memory} (hm : Memory.wf m = true) (f : Nat → Byte) (n : Nat) :
    Memory.fill f n (Memory.fill f n m) = Memory.fill f n m := by
  have hwf := Memory.wf_fill hm f n
  refine Memory.ext (Memory.wf_fill hwf f n) hwf fun a => ?_
  rw [Memory.read_fill hwf, Memory.read_fill hm]
  split <;> rfl

/-- R158: a DECODE from where a successful DECODE ended reads the same bits and stores the characters that stand
there. -/
theorem State.Ready.decoded_decoded (hr : s.Ready) : s.decoded.decoded = s.decoded := by
  have hmsg : s.decoded.decoded.msgOut = s.decoded.msgOut := Memory.fill_fill (hr.inv.mem_wf .msgOut) _ _
  calc s.decoded.decoded = { s.decoded with msgOut := s.decoded.decoded.msgOut } := rfl
    _ = s.decoded := by rw [hmsg]

/-- R157: a successful DECODE is still busy in every move before its last one. -/
theorem State.Ready.decode_moves_le (hr : s.Ready) (hm : s.HoldsMessage) {u : State} {n : Nat}
    (hrun : runs n s.acceptDecode = .next u) (hbusy : u.status.busy = false) :
    declaredLength (Memory.read s.pix) + 36 ≤ n := by
  by_contra hlt
  have hlast := hr.runs_payload hm (Nat.le_add_right 32 _) le_rfl
  have hstays := runs_alone_stays (s := s.acceptDecode) hr.noTurns nofun hrun hbusy
    (32 + declaredLength (Memory.read s.pix) + 3 - n)
  rw [Nat.add_sub_cancel' (by omega), hlast] at hstays
  cases hstays
  cases hbusy

/-- Settles O54: an error leaves nothing that the second acceptance does not write again, and after a success only
MSG_OUT differs, which the second run fills with the characters it holds. -/
theorem decodeTwiceIsDecodeOnce : Obligations.DecodeTwiceIsDecodeOnce := by
  intro s t u n hi ha hc hexec hrun hbusy
  have hr := hi.ready ha hc
  cases hr.exec_decode.symm.trans hexec
  have hiu : BlockInv u := (hi.acceptDecode hc).runs_alone hr.noTurns hrun
  have hut : u.turns = [] := runs_alone_turns (s := s.acceptDecode) hr.noTurns hrun
  have ends {v : State} {m : Nat} (hv : runs m s.acceptDecode = .next v) (hvb : v.status.busy = false) : u = v :=
    runs_end_unique (s := s.acceptDecode) hr.noTurns nofun hrun hv hbusy hvb
  have again (hcap : u.requestedCap ≤ u.cfg.pixDepth) (hsame : u.acceptDecode = s.acceptDecode) :
      ∃ t', exec .decode u = .next t' ∧ runs n t' = .next u := ⟨_, exec_decode_of_fits hbusy hcap, hsame ▸ hrun⟩
  rcases Nat.lt_or_ge s.requestedCap 32 with h32 | h32
  · cases ends (hr.runs_decode_bufferTooShort h32) rfl
    exact again hc rfl
  rcases Nat.lt_or_ge s.requestedCap (32 + declaredLength (Memory.read s.pix)) with hlen | hlen
  · cases ends (hr.runs_decode_lengthTooLong h32 hlen) rfl
    exact again hc rfl
  by_cases hbytes : declaredLength (Memory.read s.pix) % 8 = 0
  case neg =>
    cases ends (hr.runs_decode_lengthNotBytes hlen hbytes) rfl
    exact again hc rfl
  case pos =>
    have hm : s.HoldsMessage := ⟨hlen, hbytes⟩
    have hn := hr.decode_moves_le hm hrun hbusy
    cases ends (hr.runs_decode hm) rfl
    have hru : s.decoded.Ready := hiu.ready ⟨hbusy, hut⟩ hc
    have hsecond : runs (declaredLength (Memory.read s.pix) + 36) s.decoded.acceptDecode = .next s.decoded.decoded :=
      hru.runs_decode ⟨hlen, hbytes⟩
    rw [hr.decoded_decoded] at hsecond
    have hstays := runs_alone_stays (s := s.decoded.acceptDecode) hut nofun hsecond rfl
      (n - (declaredLength (Memory.read s.pix) + 36))
    rw [Nat.add_sub_cancel' hn] at hstays
    exact ⟨_, hru.exec_decode, hstays⟩

end Sys2Proof.Machine
end

section
/-! PROOFS. R104, R105: a command word and its row of the opcode table. -/

namespace Sys2Proof.Machine

/-- R104: a word decodes to a command exactly when its low two bits are the command's code. -/
theorem decodeWord_eq_iff (word : Word) (i : Instr) : decodeWord word = i ↔ word.toNat % 4 = (opcode i).toNat := by
  rcases decodeWord_cases word with ⟨hw, hop⟩ | ⟨hw, hop⟩ | ⟨hw, hop⟩ | ⟨hw, hop⟩ <;>
    rw [hw, hop] <;> cases i <;> decide

/-- Settles O1: the low two bits of the word are the code, whatever stands in the other 30. -/
theorem commandWordReadsBack : Obligations.CommandWordReadsBack := fun i ignored =>
  (decodeWord_eq_iff _ i).2 (Laws.encodeWith_mod ignored i)

/-- The row of the opcode table for a command (R104). -/
def opcodeRow (i : Instr) : OpcodeRow := { mask := 3#32, pattern := encode i, instr := i }

theorem opcodeTable_eq : opcodeTable = [Instr.nop, .encode, .decode, .reserved3].map opcodeRow := by decide

/-- R104, R105: a row covers the words that decode to its command. -/
theorem opcodeRow_covers_iff (i : Instr) (word : Word) : (opcodeRow i).covers word = true ↔ decodeWord word = i := by
  have hencode : (encode i).toNat = (opcode i).toNat := by cases i <;> decide
  have hmod : word.toNat % 4 % 2 ^ 32 = word.toNat % 4 := by omega
  rw [decodeWord_eq_iff, OpcodeRow.covers, beq_iff_eq, opcodeRow, Laws.and_three, BitVec.toNat_eq, BitVec.toNat_ofNat,
    hmod, hencode]

/-- Settles O2: a row covers the words of its command, and a word decodes to one command. -/
theorem wordIsOfExactlyOneRow : Obligations.WordIsOfExactlyOneRow := by
  intro word
  have hrow : opcodeRow (decodeWord word) ∈ opcodeTable := by
    rw [opcodeTable_eq]
    exact List.mem_map_of_mem (by cases decodeWord word <;> decide)
  refine ⟨_, hrow, (opcodeRow_covers_iff _ word).2 rfl, rfl, fun r hr hcovers => ?_⟩
  rw [opcodeTable_eq] at hr
  obtain ⟨i, -, rfl⟩ := List.mem_map.1 hr
  rw [(opcodeRow_covers_iff i word).1 hcovers]

/-- Settles O3: each word is decoded. -/
theorem writtenWordsDecode : Obligations.WrittenWordsDecode := by
  unfold Obligations.WrittenWordsDecode
  decide

end Sys2Proof.Machine
end

section
/-! PROOFS. R26, R200: the STATUS word. -/

namespace Sys2Proof.Machine

/-- Settles O18: the fields stand in the word side by side, so each is cut out after the ones below it are dropped. -/
theorem statusWordLayout : Obligations.StatusWordLayout := by
  intro st
  unfold Status.word
  refine ⟨?busy, ?done, ?err, ?zero, ?ecode, ?detail, ?rest⟩
  case busy | done | err | zero =>
    simp only [BitVec.getLsbD_append]
    simp
  case ecode =>
    iterate 4 rw [BitVec.extractLsb'_append_eq_of_le (by decide)]
    exact BitVec.extractLsb'_append_eq_right
  case detail =>
    iterate 5 rw [BitVec.extractLsb'_append_eq_of_le (by decide)]
    exact BitVec.extractLsb'_append_eq_right
  case rest =>
    iterate 6 rw [BitVec.extractLsb'_append_eq_of_le (by decide)]
    exact BitVec.extractLsb'_zero

/-- Settles O19: each word is that of its fields. -/
theorem statusWordOfEachOutcome : Obligations.StatusWordOfEachOutcome := by
  unfold Obligations.StatusWordOfEachOutcome
  decide

end Sys2Proof.Machine
end

section
/-! PROOFS. R62: sample indices and pixel coordinates. -/

namespace Sys2Proof.Machine

/-- A row of the image is `3 x W` samples, so rows are counted in pixels. -/
theorem rowOf_eq (w i : Nat) : rowOf w i = i / 3 / w := (Nat.div_div_eq_div_mul i 3 w).symm

theorem sampleIndex_div_three (w y x : Nat) {c : Nat} (hc : c < 3) : sampleIndex w y x c / 3 = y * w + x := by
  unfold sampleIndex
  omega

/-- A sample of the image is a sample of one of its pixels. -/
theorem div_three_lt_iff (w h i : Nat) : i < capacityOf w h ↔ i / 3 < h * w := by
  rw [capacityOf, Nat.mul_assoc, Nat.mul_comm w h]
  omega

/-- Settles O31: the channel is the remainder by 3, and column and row are remainder and quotient of the pixel by W. -/
theorem sampleOrder : Obligations.SampleOrder := by
  intro w h
  refine ⟨fun y x c hy hx hc => ?_, fun i hi => ?_⟩
  · have hw : 0 < w := by omega
    have hpixel := sampleIndex_div_three w y x hc
    have hrows : (y + 1) * w ≤ h * w := Nat.mul_le_mul_right w hy
    rw [Nat.succ_mul] at hrows
    rw [div_three_lt_iff, rowOf_eq, columnOf, hpixel]
    refine ⟨by omega, ?_, ?_, ?_⟩
    · unfold channelOf sampleIndex
      omega
    · rw [Nat.mul_comm, Nat.mul_add_mod, Nat.mod_eq_of_lt hx]
    · rw [Nat.mul_comm, Nat.mul_add_div hw, Nat.div_eq_of_lt hx, Nat.add_zero]
  · rw [div_three_lt_iff] at hi
    have hw : 0 < w := Nat.pos_of_ne_zero fun h0 => by simp [h0] at hi
    refine ⟨?_, Nat.mod_lt _ hw, Nat.mod_lt _ (by decide), ?_⟩
    · rw [rowOf_eq]
      exact Nat.div_lt_of_lt_mul (by rwa [Nat.mul_comm])
    · rw [sampleIndex, rowOf_eq, columnOf, Nat.div_add_mod', channelOf, Nat.div_add_mod]

end Sys2Proof.Machine
end

section
/-! PROOFS. R134: at function level decode undoes encode. -/

namespace Sys2Proof.Machine

/-- R132: in the frame, bit 0 of a sample of the encoded image is the frame bit. -/
theorem lsb_encodedSample {l i : Nat} (msg pix : Nat → Byte) (h : i < frameLength l) :
    lsb (encodedSample l msg pix i) = frameBit l msg i := by
  rw [encodedSample, if_pos h, lsb_setlsb]

/-- Settles O30: the frame is within the image, its bits are in the samples, and the two readings give back what they
were made of. -/
theorem frameReadsBack : Obligations.FrameReadsBack := by
  intro w h l msg pix out hl hout
  rcases Nat.lt_or_ge (capacityOf w h) (frameLength l) with hf | hf
  case inl => cases (encodeImage_tooLong hf msg pix).symm.trans hout
  case inr =>
    cases (encodeImage_fits hf msg pix).symm.trans hout
    have hbits : ∀ i < frameLength l,
        lsb (((List.range (capacityOf w h)).map (encodedSample l msg pix)).getD i 0#8) = frameBit l msg i := by
      intro i hi
      rw [← lsb_encodedSample msg pix hi]
      simp [hi.trans_le hf]
    have hlen := declaredLength_of_frame hl hbits
    refine ⟨by simp [capacityOf], ?_⟩
    rw [decodeImage_fits (by rw [hlen]; exact hf), hlen, if_neg (by omega), Nat.mul_div_cancel_left l (by decide)]
    exact congrArg _ (List.map_congr_left fun j hj => messageChar_of_frame hbits (List.mem_range.1 hj))

end Sys2Proof.Machine
end

section
/-! PROOFS. R46, R230, R231, R232: reset. -/

namespace Sys2Proof.Machine

/-- Settles O4: the reset state is written with these values. -/
theorem resetRegistersAreZero : Obligations.ResetRegistersAreZero := by
  unfold Obligations.ResetRegistersAreZero
  decide

theorem State.abandon_of_not_busy {s : State} (hb : s.status.busy = false) : s.abandon = s := by
  simp [State.abandon, hb]

/-- Settles O5: reset writes the registers only; nothing is abandoned with BUSY = 0; and PHASE is then IDLE. -/
theorem resetActionClearsRegisters : Obligations.ResetActionClearsRegisters := by
  intro s rest hturns
  rw [step_of_reset_turn hturns]
  refine ⟨_, rfl, ?_, fun hb => ?_, engineStep_idle rfl⟩
  · simp [State.resetRegisters]
  · rw [State.abandon_of_not_busy (s := { s with turns := rest }) hb]
    exact ⟨rfl, rfl⟩

/-- Settles O6: after a reset there is nothing to abandon and nothing left to clear, and what it writes to the registers
it takes from no state. -/
theorem twoResetsEqualOne : Obligations.TwoResetsEqualOne := by
  refine ⟨fun s t h => ?_, fun s s' t t' hcfg h h' => ?_⟩
  · cases h
    rfl
  · cases h
    cases h'
    simp [State.resetRegisters, hcfg]

theorem State.abandon_encode {s : State} (hb : s.status.busy = true) (ho : s.opr = .enc) :
    s.abandon = { s with
      outPix := Memory.fill (Config.abandonedByte s.abandoned) s.cap.toNat s.outPix
      abandoned := s.abandoned + 1 } := by
  simp [State.abandon, hb, ho]

theorem State.abandon_decode {s : State} (hb : s.status.busy = true) (ho : s.opr = .dec) :
    s.abandon = { s with
      msgOut := Memory.fill (Config.abandonedByte s.abandoned) (abandonedChars s) s.msgOut
      abandoned := s.abandoned + 1 } := by
  simp [State.abandon, hb, ho]

/-- R232: once PLEN is the declared length, the characters an abandoned DECODE may have stored are `PLEN div 8`, and all
of them have their places (R70). -/
theorem Progress.abandonedChars_eq {s : State} (hi : BlockInv s) (hg : Progress s) (hp : s.phase = .dPayload) :
    abandonedChars s = s.plen.toNat / 8 := by
  obtain ⟨hcap, -, -, -⟩ := hi.payloadBounds hp
  have hdepth := hi.cap_le hp (by decide)
  have hlegal := ((Config.legal_iff _).1 hi.cfgLegal).2 (by omega)
  rw [abandonedChars, if_neg (by omega), ← hg.declared (.inr hp), Nat.min_eq_left (by omega)]

/-- Settles O7: the operation in progress says which memory is filled and how far. -/
theorem resetWhileBusyFreesOutputRange : Obligations.ResetWhileBusyFreesOutputRange := by
  intro s hi hg hb
  refine ⟨_, rfl, (by decide : Status.clear.word = 0#32), s.abandon_pix, s.abandon_msgIn, fun ho => ?_, fun ho => ?_,
    fun hp a => ?_⟩
  · rw [State.abandon_encode hb ho]
    exact ⟨rfl, Memory.read_fill (hi.mem_wf .outPix) _ _⟩
  · rw [State.abandon_decode hb ho]
    rfl
  · rw [State.abandon_decode hb (hi.decodeOpr (by rw [hp]; rfl)), ← hg.abandonedChars_eq hi hp]
    exact Memory.read_fill (hi.mem_wf .msgOut) _ _ a

/-- Settles O42: an idle block whose registers are 0 and whose memories list nothing. -/
theorem resetMeetsInvariant : Obligations.ResetMeetsInvariant := by
  have hreset {c : Config} (hc : c.legal = true) : BlockInv (State.resetWith c) ∧ Progress (State.resetWith c) :=
    ⟨.of_idle hc (fun m => by cases m <;> rfl) rfl rfl rfl .clear (absurd rfl), .of_idle rfl⟩
  have hvec : Config.ofVectors.legal = true := by decide
  exact ⟨(hreset hvec).1, (hreset hvec).2, fun c hc => hreset hc⟩

end Sys2Proof.Machine
end

section
/-! PROOFS. R44, R183 to R187: what a command leaves unchanged, and what acceptance depends on. -/

namespace Sys2Proof.Machine

/-- Settles O16: a write to register 0 is the command event, and the fetch word stands as the next turn. -/
theorem stepRunsDecodedCommand : Obligations.StepRunsDecodedCommand := by
  refine ⟨fun s word rest hturns => step_of_writeReg_turn hturns, fun s w hw => ?_⟩
  have hstep := step_of_writeReg_turn (s := s.withFetchWord 32 w) (n := 0) rfl
  rw [Nat.mod_eq_of_lt hw] at hstep
  exact hstep

/-- Settles O14: none of the five answers of a command writes more than the statement lets it. -/
theorem commandFrame : Obligations.CommandFrame := by
  intro i s t h
  refine ⟨fun m a => by rw [exec_mem h m], ?_⟩
  rcases exec_cases i s with ⟨hexec, hi⟩ | ⟨hexec, rfl, hb⟩ | ⟨hexec, hi, hb, -⟩ | ⟨hexec, rfl, hb, -⟩ |
      ⟨hexec, rfl, hb, -⟩ <;> cases hexec.symm.trans h
  · exact ⟨rfl, rfl, rfl, rfl, rfl, rfl, rfl, fun _ => ⟨rfl, rfl⟩, fun _ => rfl, fun _ => rfl⟩
  · exact ⟨rfl, rfl, rfl, rfl, rfl, rfl, rfl, fun _ => ⟨rfl, rfl⟩, fun _ => rfl, nofun⟩
  · exact ⟨rfl, rfl, rfl, rfl, rfl, rfl, rfl, fun _ => ⟨rfl, rfl⟩, fun _ => rfl, by rintro rfl; simp at hi⟩
  · exact ⟨rfl, rfl, rfl, rfl, rfl, rfl, rfl, absurd rfl, by simp [hb, Status.accepted], nofun⟩
  · exact ⟨rfl, rfl, rfl, rfl, rfl, rfl, rfl, fun _ => ⟨rfl, rfl⟩, by simp [hb, Status.accepted], nofun⟩

/-- Settles O15: acceptance writes every field in which the two states may differ but FLEN and LLEN, and those
for ENCODE. -/
theorem acceptanceForgetsEarlierOperations : Obligations.AcceptanceForgetsEarlierOperations := by
  intro s s' t t' hs hb hb' hc
  have hc' : s'.requestedCap ≤ s'.cfg.pixDepth := by rw [hs]; exact hc
  refine ⟨fun h h' => ?_, fun h h' => ?_⟩
  · cases (exec_encode_of_fits hb hc).symm.trans h
    cases (exec_encode_of_fits hb' hc').symm.trans h'
    rw [hs]
    rfl
  · cases (exec_decode_of_fits hb hc).symm.trans h
    cases (exec_decode_of_fits hb' hc').symm.trans h'
    rw [hs]
    rfl

end Sys2Proof.Machine
end

section
/-! PROOFS. R78, R82, R190: the host's accesses to the memories. -/

namespace Sys2Proof.Machine

variable {s : State}

/-- R190: a write is read back at its index of its memory, and every other byte of every memory is as before. -/
theorem BlockInv.read_setMem_write (hi : BlockInv s) (m : MemId) (a : Nat) (v : Byte) (m' : MemId) (b : Nat) :
    Memory.read ((s.setMem m (Memory.write (s.mem m) a v)).mem m') b =
      if m' = m ∧ b = a then v else Memory.read (s.mem m') b := by
  rw [State.setMem_mem]
  by_cases hm : m' = m
  · subst hm
    simp only [if_true, true_and]
    exact Memory.read_write (hi.mem_wf m') a b v
  · simp only [hm, if_false, false_and]

/-- Settles O24: with BUSY = 0 and below the depth each access is one memory operation. -/
theorem hostMemoryAccess : Obligations.HostMemoryAccess := by
  intro s rest m a v hi hb ha
  refine ⟨fun hturns => ?_, fun hturns => ?_⟩
  · rw [step_of_writeMem_turn hturns]
    refine ⟨_, hostWriteMem_of_lt (s := { s with turns := rest }) hb ha v,
      (hi.setTurns rest).read_setMem_write m a v, ?_⟩
    cases m <;> rfl
  · rw [step_of_readMem_turn hturns]
    exact hostReadMem_of_lt (s := { s with turns := rest }) hb ha

/-- Settles O26: the one move is a read of OUT_PIX and a write of PIX at the same index. -/
theorem hostCopyMovesOneSample : Obligations.HostCopyMovesOneSample := by
  intro s rest a hi hb ha hturns
  rw [step_of_copyByte_turn hturns]
  exact ⟨_, hostCopyByte_of_lt (s := { s with turns := rest }) hb ha,
    fun b => Memory.read_write (hi.mem_wf .pix) a b _, rfl⟩

/-- Settles O25: BUSY is looked at first, the depth by the memory operation. -/
theorem hostMemoryMisuseStops : Obligations.HostMemoryMisuseStops := by
  intro s rest m a v hturns
  obtain hturns | hturns := hturns
  · rw [step_of_writeMem_turn hturns]
    exact ⟨fun hb => if_pos hb, fun hb ha =>
      (hostMemory_of_not_busy (s := { s with turns := rest }) hb m a _).trans
        (writeByte_fault (s := { s with turns := rest }) ha v _)⟩
  · rw [step_of_readMem_turn hturns]
    exact ⟨fun hb => if_pos hb, fun hb ha =>
      (hostMemory_of_not_busy (s := { s with turns := rest }) hb m a _).trans
        (readByte_fault (s := { s with turns := rest }) ha _)⟩

end Sys2Proof.Machine
end
